-- ==== Sys2Proof/Word.lean ====
section
/-! DEFINITION. The word types of QOSC (00_scope.md R7, R9): every command, operand, response and register word
is 32 bits, an amplitude is 16 bits in two's complement, and a byte exists only on a host's bus (R34).
The operations on them stand in Decode.lean and Machine/Operands.lean. -/

namespace Sys2Proof

/-- A `u32` (R9): WORD_W = PHASE_W = OFS_W = 32 (R7; DESIGN CHOICE, log 9). -/
abbrev Word := BitVec 32

/-- The bit pattern of an `s16` amplitude in format Q2.14 (R7: AMP_W = 16, AMP_FRAC = 14; R16). -/
abbrev Amp := BitVec 16

/-- A byte of a byte-addressed host bus (R34); nothing inside the block is a byte. -/
abbrev Byte := BitVec 8

/-- The index of an entry of the sine ROM (R29: SIN_ADDR_W = 10). -/
abbrev RomIndex := BitVec 10

end Sys2Proof
end

