-- ==== Sys2Proof/Syntax.lean ====
section
/-! DEFINITION. The command transaction (30_encoding.md R46), the 23 operations of the opcode map (R51) with their
classes and response kinds, and the commands as a host issues them, operands read as R49 says. -/

namespace Sys2Proof

/-- The accumulator that the A field selects (R19, R48): A = 0 is PA0, A = 1 is PA1. -/
inductive AccSel where
  | pa0
  | pa1
deriving DecidableEq, Repr

/-- One command transaction from the host, three whole words (R12, R46). -/
structure Command where
  cmd : Word
  opa : Word
  opb : Word
deriving DecidableEq, Repr

/-- The class column of R51: only class "acc" commands take the A field. -/
inductive OpClass where
  | acc
  | gen
  | ctl
deriving DecidableEq, Repr

/-- The response column of R51, with the kinds R50 defines. -/
inductive ResponseKind where
  | phase
  | amp
  | bool
  | status
  | none
deriving DecidableEq, Repr

/-- The 23 operations of the opcode map (R51), in its order. -/
inductive Op where
  | nop | adv | advo | isst | inc | dec | getph | setph | getinc | setinc | setfreq | setper
  | sin | pulse | pulseo | getw | setw | fm | fmo | getg | setg
  | getst | clrst
deriving DecidableEq, Repr

/-- A command with its operands (R49): `a` the accumulator, `k` the signed sample offset, `v` a word written
unchanged. Operand words a command ignores are no part of it. -/
inductive Instr where
  | nop
  | adv (a : AccSel)
  | advo (a : AccSel) (k : Int)
  | isst (a : AccSel)
  | inc (a : AccSel)
  | dec (a : AccSel)
  | getph (a : AccSel)
  | setph (a : AccSel) (v : Word)
  | getinc (a : AccSel)
  | setinc (a : AccSel) (v : Word)
  | setfreq (a : AccSel) (freq sr : Word)
  | setper (a : AccSel) (period : Word)
  | sin
  | pulse
  | pulseo (k : Int)
  | getw
  | setw (v : Word)
  | fm
  | fmo (k : Int)
  | getg
  | setg (v : Word)
  | getst
  | clrst
deriving DecidableEq, Repr

/-- The operation a command is. -/
def Instr.op : Instr → Op
  | .nop => .nop
  | .adv _ => .adv
  | .advo _ _ => .advo
  | .isst _ => .isst
  | .inc _ => .inc
  | .dec _ => .dec
  | .getph _ => .getph
  | .setph _ _ => .setph
  | .getinc _ => .getinc
  | .setinc _ _ => .setinc
  | .setfreq _ _ _ => .setfreq
  | .setper _ _ => .setper
  | .sin => .sin
  | .pulse => .pulse
  | .pulseo _ => .pulseo
  | .getw => .getw
  | .setw _ => .setw
  | .fm => .fm
  | .fmo _ => .fmo
  | .getg => .getg
  | .setg _ => .setg
  | .getst => .getst
  | .clrst => .clrst

end Sys2Proof
end

