-- ==== Sys2Proof/WellFormed.lean ====
section
/-! DEFINITION. Which commands an encoding exists for: the sample offset is an `s32` (00_scope.md R9, 30_encoding.md R49).
Every other operand is a word or an accumulator by its type, and every word is legal (10_state.md R22). -/

namespace Sys2Proof

/-- `k` is an `s32` (R9): an integer in [-2^31, 2^31). -/
abbrev IsS32 (k : Int) : Prop := -2 ^ 31 ≤ k ∧ k < 2 ^ 31

/-- A command that some command word and operand words stand for: its sample offset, where it has one, is an `s32`. -/
def Instr.wf : Instr → Bool
  | .advo _ k => decide (IsS32 k)
  | .pulseo k => decide (IsS32 k)
  | .fmo k => decide (IsS32 k)
  | .nop => true
  | .adv _ => true
  | .isst _ => true
  | .inc _ => true
  | .dec _ => true
  | .getph _ => true
  | .setph _ _ => true
  | .getinc _ => true
  | .setinc _ _ => true
  | .setfreq _ _ _ => true
  | .setper _ _ => true
  | .sin => true
  | .pulse => true
  | .getw => true
  | .setw _ => true
  | .fm => true
  | .getg => true
  | .setg _ => true
  | .getst => true
  | .clrst => true

/-- The well-formedness of a command as a proposition. -/
abbrev WellFormed (i : Instr) : Prop := i.wf = true

end Sys2Proof
end

