-- ==== Sys2Proof/Decode.lean ====
section
/-! DEFINITION. The opcode map (30_encoding.md R51), the decoder (R54), total on every word, and after it the encoder,
written from the same map; then the host's numbering of a row's bits and the byte order of R34. -/

namespace Sys2Proof

/-! ### The opcode map (R51) -/

/-- The OP column of R51. -/
def Op.code : Op → BitVec 8
  | .nop => 0x00
  | .adv => 0x01
  | .advo => 0x02
  | .isst => 0x03
  | .inc => 0x04
  | .dec => 0x05
  | .getph => 0x06
  | .setph => 0x07
  | .getinc => 0x08
  | .setinc => 0x09
  | .setfreq => 0x0A
  | .setper => 0x0B
  | .sin => 0x10
  | .pulse => 0x12
  | .pulseo => 0x13
  | .getw => 0x14
  | .setw => 0x15
  | .fm => 0x18
  | .fmo => 0x19
  | .getg => 0x1A
  | .setg => 0x1B
  | .getst => 0x20
  | .clrst => 0x21

/-- The class column of R51. -/
def Op.cls : Op → OpClass
  | .nop => .ctl
  | .adv => .acc
  | .advo => .acc
  | .isst => .acc
  | .inc => .acc
  | .dec => .acc
  | .getph => .acc
  | .setph => .acc
  | .getinc => .acc
  | .setinc => .acc
  | .setfreq => .acc
  | .setper => .acc
  | .sin => .gen
  | .pulse => .gen
  | .pulseo => .gen
  | .getw => .gen
  | .setw => .gen
  | .fm => .gen
  | .fmo => .gen
  | .getg => .gen
  | .setg => .gen
  | .getst => .ctl
  | .clrst => .ctl

/-- The response column of R51. -/
def Op.response : Op → ResponseKind
  | .nop => .none
  | .adv => .phase
  | .advo => .phase
  | .isst => .bool
  | .inc => .none
  | .dec => .none
  | .getph => .phase
  | .setph => .none
  | .getinc => .phase
  | .setinc => .none
  | .setfreq => .none
  | .setper => .none
  | .sin => .amp
  | .pulse => .amp
  | .pulseo => .amp
  | .getw => .phase
  | .setw => .none
  | .fm => .amp
  | .fmo => .amp
  | .getg => .phase
  | .setg => .none
  | .getst => .status
  | .clrst => .none

/-- The rows of R51, in its order. -/
def Op.all : List Op :=
  [.nop, .adv, .advo, .isst, .inc, .dec, .getph, .setph, .getinc, .setinc, .setfreq, .setper] ++
  [.sin, .pulse, .pulseo, .getw, .setw, .fm, .fmo, .getg, .setg, .getst, .clrst]

/-- The operation an opcode byte names, if R51 has it. -/
def Op.ofCode (b : BitVec 8) : Option Op := Op.all.find? (fun o => o.code == b)

/-! ### The fields of a command word (R48) -/

/-- `cmd[7:0]`, the field OP. -/
def cmdOp (c : Word) : BitVec 8 := c.extractLsb' 0 8

/-- `cmd[8]`, the field A. -/
def cmdA (c : Word) : Bool := c.getLsbD 8

/-- `cmd[31:9]`, which must be 0. -/
def cmdHigh (c : Word) : BitVec 23 := c.extractLsb' 9 23

/-- The accumulator that a value of the field A selects (R48). -/
def AccSel.ofBit (b : Bool) : AccSel := if b then .pa1 else .pa0

/-- The value of the field A that selects an accumulator (R48). -/
def AccSel.toBit : AccSel → Bool
  | .pa0 => false
  | .pa1 => true

/-- `sext_32` (R9): the integer a 32-bit pattern stands for in two's complement. -/
def sext32 (v : Word) : Int := v.toInt

/-! ### Decoding (R54) -/

/-- Why a command word is illegal (R47, R52). The hardware raises ILL for each and does not record which (R107). -/
inductive Illegal where
  /-- a bit of `cmd[31:9]` is 1 -/
  | highBits
  /-- `cmd[7:0]` is none of the 23 opcodes -/
  | noOpcode
  /-- A = 1 on a class "gen" or "ctl" opcode -/
  | selectNotAcc
deriving DecidableEq, Repr

/-- What a transaction is read as. -/
inductive Decoded where
  | ok (i : Instr)
  | illegal (why : Illegal)
deriving DecidableEq, Repr

/-- A legal command with the operands R49 takes from `opa` and `opb`. -/
def assemble (o : Op) (a : AccSel) (opa opb : Word) : Instr :=
  match o with
  | .nop => .nop
  | .adv => .adv a
  | .advo => .advo a (sext32 opa)
  | .isst => .isst a
  | .inc => .inc a
  | .dec => .dec a
  | .getph => .getph a
  | .setph => .setph a opa
  | .getinc => .getinc a
  | .setinc => .setinc a opa
  | .setfreq => .setfreq a opa opb
  | .setper => .setper a opa
  | .sin => .sin
  | .pulse => .pulse
  | .pulseo => .pulseo (sext32 opa)
  | .getw => .getw
  | .setw => .setw opa
  | .fm => .fm
  | .fmo => .fmo (sext32 opa)
  | .getg => .getg
  | .setg => .setg opa
  | .getst => .getst
  | .clrst => .clrst

/-- The decode function of R54, in its order: the high bits, the opcode, the accumulator select. -/
def decode (c : Command) : Decoded :=
  if cmdHigh c.cmd ≠ 0 then .illegal .highBits
  else
    match Op.ofCode (cmdOp c.cmd) with
    | none => .illegal .noOpcode
    | some o =>
      if o.cls ≠ .acc ∧ cmdA c.cmd = true then .illegal .selectNotAcc
      else .ok (assemble o (AccSel.ofBit (cmdA c.cmd)) c.opa c.opb)

/-- The condition of R47, word for word: a command word is legal if and only if all three hold. -/
def LegalWord (w : Word) : Prop :=
  cmdHigh w = 0 ∧ ∃ o ∈ Op.all, cmdOp w = o.code ∧ (cmdA w = false ∨ o.cls = .acc)

/-! ### Encoding (R48, R49) -/

/-- The command word of R48 for an opcode and a value of the field A. -/
def cmdWord (o : Op) (a : Bool) : Word := (0 : BitVec 23) ++ BitVec.ofBool a ++ o.code

/-- The accumulator operand of a class "acc" command; PA0, whose select bit is 0, for the others. -/
def Instr.select : Instr → AccSel
  | .adv a => a
  | .advo a _ => a
  | .isst a => a
  | .inc a => a
  | .dec a => a
  | .getph a => a
  | .setph a _ => a
  | .getinc a => a
  | .setinc a _ => a
  | .setfreq a _ _ => a
  | .setper a _ => a
  | .nop => .pa0
  | .sin => .pa0
  | .pulse => .pa0
  | .pulseo _ => .pa0
  | .getw => .pa0
  | .setw _ => .pa0
  | .fm => .pa0
  | .fmo _ => .pa0
  | .getg => .pa0
  | .setg _ => .pa0
  | .getst => .pa0
  | .clrst => .pa0

/-- The first operand word (R49); 0 where the command ignores it (R55: an omitted word assembles as 0). -/
def Instr.opa : Instr → Word
  | .advo _ k => BitVec.ofInt 32 k
  | .pulseo k => BitVec.ofInt 32 k
  | .fmo k => BitVec.ofInt 32 k
  | .setph _ v => v
  | .setinc _ v => v
  | .setw v => v
  | .setg v => v
  | .setfreq _ freq _ => freq
  | .setper _ period => period
  | .nop => 0
  | .adv _ => 0
  | .isst _ => 0
  | .inc _ => 0
  | .dec _ => 0
  | .getph _ => 0
  | .getinc _ => 0
  | .sin => 0
  | .pulse => 0
  | .getw => 0
  | .fm => 0
  | .getg => 0
  | .getst => 0
  | .clrst => 0

/-- The second operand word (R49): only SETFREQ reads it. -/
def Instr.opb : Instr → Word
  | .setfreq _ _ sr => sr
  | .nop => 0
  | .adv _ => 0
  | .advo _ _ => 0
  | .isst _ => 0
  | .inc _ => 0
  | .dec _ => 0
  | .getph _ => 0
  | .setph _ _ => 0
  | .getinc _ => 0
  | .setinc _ _ => 0
  | .setper _ _ => 0
  | .sin => 0
  | .pulse => 0
  | .pulseo _ => 0
  | .getw => 0
  | .setw _ => 0
  | .fm => 0
  | .fmo _ => 0
  | .getg => 0
  | .setg _ => 0
  | .getst => 0
  | .clrst => 0

/-- The transaction of a command (R46, R48, R49), with 0 in every operand word it ignores. -/
def encode (i : Instr) : Command := ⟨cmdWord i.op i.select.toBit, i.opa, i.opb⟩

/-! ### The opcode map as match and mask (R51) -/

/-- The match column of R51 (for class "acc" the A = 0 word). -/
def Op.matchWord (o : Op) : Word := cmdWord o false

/-- The mask column of R51: the A bit is free for class "acc" and must match for the others. -/
def Op.mask (o : Op) : Word :=
  match o.cls with
  | .acc => 0xFFFFFEFF
  | .gen => 0xFFFFFFFF
  | .ctl => 0xFFFFFFFF

/-- A word selects a row of R51 "when `w & mask = match`". -/
def Op.selects (o : Op) (w : Word) : Prop := w &&& o.mask = o.matchWord

/-! ### The words of a transaction as numbers and as bytes -/

/-- The transaction whose words, counted from bit 0 of the first, are the bits of `w`. -/
def Command.ofBits (w : Nat) : Command :=
  ⟨BitVec.ofNat 32 w, BitVec.ofNat 32 (w >>> 32), BitVec.ofNat 32 (w >>> 64)⟩

/-- The transaction of an opcode-table row: its `nbits` bits as `w` numbers them, every bit above them 0. -/
def tableCommand (nbits w : Nat) : Command := Command.ofBits (w % 2 ^ nbits)

/-- What the decoder reads from a word of spec/opcode_table.json. -/
def decodeTableWord (nbits w : Nat) : Option Instr :=
  match decode (tableCommand nbits w) with
  | .ok i => some i
  | .illegal _ => none

/-- A word on a byte-addressed host bus, little-endian: byte 0 holds bits 7:0 (R34, a host convention). -/
def wordToBytes (w : Word) : List Byte :=
  [w.extractLsb' 0 8, w.extractLsb' 8 8, w.extractLsb' 16 8, w.extractLsb' 24 8]

/-- The word that four bytes of a byte-addressed host bus hold (R34). -/
def wordOfBytes (b0 b1 b2 b3 : Byte) : Word := b3 ++ b2 ++ b1 ++ b0

end Sys2Proof
end

