-- ==== Sys2Proof/Machine/State.lean ====
section
/-! DEFINITION. The state of one QOSC instance: the seven registers of 10_state.md R18 in the form R28 gives them, and
beside them the run (the host's list, the index of R23, the responses, the record of errors of R110). Plain data. -/

namespace Sys2Proof.Machine

/-- The two error conditions (60_exceptions.md R106). No step ends in one: R106 has the next command proceed normally,
so `State.raise` records the error in STATUS and in `State.faults` and the step goes on (DEDUCED, log 1). Safe: a claim that
assumes no error assumes that record empty (92 D22). -/
inductive Fault where
  /-- ILL, an illegal command word (R107). Raised by `step` where `decode` refuses the word; STATUS bit 0. -/
  | ill
  /-- PV, a precondition violation (R108). Raised by `execSetfreq` where SR = 0 and by `execSetper` where PERIOD = 0;
  STATUS bit 1. -/
  | pv
deriving DecidableEq, Repr

/-- Reasons to have no meaning for a command. None is ever raised: every command of the opcode map has its meaning. -/
inductive Refusal where
  /-- Required by the host's interface; no arm of `exec` answers with it. Safe: it would only stop a run. -/
  | notModelled (mnemonic : String)
deriving DecidableEq, Repr

/-- One accumulator (R18, R28): its phase and its increment per sample. -/
structure Acc where
  ph  : Word
  inc : Word
deriving DecidableEq, Repr

/-- The architectural registers of one instance (R17, R18), as R28 writes them: PA[0], PA[1], WIDTH, GAIN and the two
defined bits of STATUS (DEDUCED, log 8). -/
structure Regs where
  pa0   : Acc
  pa1   : Acc
  width : Word
  gain  : Word
  ill   : Bool
  pv    : Bool
deriving DecidableEq, Repr

/-- What the host does to the block next: a command transaction (R46), or a pulse on `rst_n` between commands (R122). -/
inductive HostInput where
  | command (c : Command)
  | reset
deriving DecidableEq, Repr

/-- An error of the run (R110): the index of the command that raised it (R23) and which of the two it was. -/
structure FaultEntry where
  index : Nat
  kind  : Fault
deriving DecidableEq, Repr

/-- One instance and the run around it. Only `regs` is the block's (R17, R26); the rest is the host's list and the
model's record, and no command reads it. -/
structure State where
  /-- the registers of R18 -/
  regs : Regs
  /-- what the host sends next, oldest first (R23, D31) -/
  pending : List HostInput
  /-- the index of the next command in the host's list (R23) -/
  index : Nat
  /-- the responses so far, one per command, oldest first (D31, D32) -/
  responses : List Word
  /-- the errors of the run, oldest first, never cleared by CLRST (R105, R110, D22) -/
  faults : List FaultEntry
deriving DecidableEq, Repr

/-- What a step answers. -/
abbrev Result := Host.Outcome State Fault Refusal

/-- The reset values of the registers (R18, R121). -/
def Regs.reset : Regs :=
  { pa0 := ⟨0x00000000, 0x00000000⟩
    pa1 := ⟨0x00000000, 0x00000000⟩
    width := 0x80000000
    gain := 0x00000000
    ill := false
    pv := false }

/-- The machine right after reset (R121), at the start of a run (R23: the index starts at 0), with nothing sent yet. -/
def State.reset : State :=
  { regs := Regs.reset
    pending := []
    index := 0
    responses := []
    faults := [] }

end Sys2Proof.Machine
end

