-- ==== Sys2Proof/Machine/Flags.lean ====
section
/-! DEFINITION. The flag bits and the predicate of the block: the STATUS word (10_state.md R21, R28), the bit an error
sets (R107, R108), and the cycle-start test, which is computed and not stored (R24, R61). -/

namespace Sys2Proof.Machine

/-- STATUS as a word: bit 0 ILL, bit 1 PV, bits 31:2 read 0 (R21, R28, R104). -/
def Regs.statusWord (r : Regs) : Word := (if r.pv then 2 else 0) + (if r.ill then 1 else 0)

/-- The sticky bit an error sets, the other bit kept (R107, R108, R113). -/
def Regs.setFlag (e : Fault) (r : Regs) : Regs :=
  match e with
  | .ill => { r with ill := true }
  | .pv => { r with pv := true }

/-- Both STATUS bits at 0 (R105). -/
def Regs.clearFlags (r : Regs) : Regs := { r with ill := false, pv := false }

/-- The cycle-start predicate of an accumulator (R61): its phase is below its increment, both unsigned. -/
def Acc.isStart (x : Acc) : Bool := decide (x.ph.toNat < x.inc.toNat)

end Sys2Proof.Machine
end

