-- ==== Sys2Proof/Machine/Operands.lean ====
section
/-! DEFINITION. The number formats and the arithmetic of the rules (00_scope.md R9): wrapping to a word, the response
words of R50, the phase k samples on (R57), and the conversions of a frequency and of a period (R62, R63). -/

namespace Sys2Proof.Machine

/-- `wrap32` (R9): the residue modulo 2^32 of an integer, negative included. -/
def wrap32 (x : Int) : Word := BitVec.ofInt 32 x

/-- `x >>> n` (R9): `floor(x / 2^n)`, rounding toward minus infinity. -/
def floorShift (x : Int) (n : Nat) : Int := x / 2 ^ n

/-- An amplitude as a response word, `to_u32(sext_16(A))` (R50, R83). -/
def ampWord (a : Amp) : Word := wrap32 a.toInt

/-- A truth value as a response word (R50). -/
def boolWord (b : Bool) : Word := if b then 1 else 0

/-- The phase `k` samples from phase `p` at increment `d`: `wrap32(p + k * d)` (R57). -/
def phaseAfter (p d : Word) (k : Int) : Word := wrap32 (p.toNat + k * d.toNat)

/-- `freq_to_inc` (R62) for SR ≠ 0: frequency over sample rate, rounded to nearest, ties upward, then wrapped. -/
def freqToInc (freq sr : Word) : Word :=
  wrap32 (((freq.toNat * 2 ^ 17 + sr.toNat) / (2 * sr.toNat) : Nat) : Int)

/-- `period_to_inc` (R63) for PERIOD ≠ 0: one cycle over the period, rounded to nearest, ties upward, then wrapped. -/
def periodToInc (period : Word) : Word :=
  wrap32 (((2 ^ 49 + period.toNat) / (2 * period.toNat) : Nat) : Int)

end Sys2Proof.Machine
end

