-- ==== Sys2Proof/Machine/Ops.lean ====
section
/-! DEFINITION. The named operations every meaning is written over: reading and writing a register (10_state.md R11, R18),
the response (R12), raising an error (60_exceptions.md R106 to R108), the accumulator's sample step (R57), and what
the step does around a command (R23, R121). -/

namespace Sys2Proof.Machine

/-! ### Registers -/

/-- PA[a] (R19). -/
def Regs.acc (a : AccSel) (r : Regs) : Acc :=
  match a with
  | .pa0 => r.pa0
  | .pa1 => r.pa1

/-- `PA[a] <- x`, the other accumulator kept (R19: no aliasing). -/
def Regs.setAcc (a : AccSel) (x : Acc) (r : Regs) : Regs :=
  match a with
  | .pa0 => { r with pa0 := x }
  | .pa1 => { r with pa1 := x }

/-- The phase PA[a].PH. -/
def State.ph (a : AccSel) (s : State) : Word := (s.regs.acc a).ph

/-- The increment PA[a].INC. -/
def State.inc (a : AccSel) (s : State) : Word := (s.regs.acc a).inc

/-- `PA[a].PH <- v`, all 32 bits (R22). -/
def State.setPh (a : AccSel) (v : Word) (s : State) : State :=
  { s with regs := s.regs.setAcc a { s.regs.acc a with ph := v } }

/-- `PA[a].INC <- v`, all 32 bits (R22). -/
def State.setInc (a : AccSel) (v : Word) (s : State) : State :=
  { s with regs := s.regs.setAcc a { s.regs.acc a with inc := v } }

/-- `WIDTH <- v` (R91). -/
def State.setWidth (v : Word) (s : State) : State := { s with regs := { s.regs with width := v } }

/-- `GAIN <- v` (R100). -/
def State.setGain (v : Word) (s : State) : State := { s with regs := { s.regs with gain := v } }

/-- `STATUS.ILL <- 0; STATUS.PV <- 0` (R105). The record of the run's errors is not touched (R105, D22). -/
def State.clearStatus (s : State) : State := { s with regs := s.regs.clearFlags }

/-! ### Responses and errors -/

/-- `respond(v)`: the command's one response word (R12, R46). -/
def State.respond (v : Word) (s : State) : State := { s with responses := s.responses ++ [v] }

/-- `raise ILL` and `raise PV` (R13, R106 to R108): the sticky bit, the response 0, no other register; the model
records the error with the command's index (R110, DEDUCED, log 1). -/
def State.raise (e : Fault) (s : State) : State :=
  State.respond 0 { s with regs := s.regs.setFlag e, faults := s.faults ++ [⟨s.index, e⟩] }

/-! ### The accumulator's sample step -/

/-- `acc_advance(a, k)` (R57): returns the phase `k` samples from the stored one, and the state whose stored phase has
moved by exactly one increment, whatever `k` is (R58). -/
def accAdvance (a : AccSel) (k : Int) (s : State) : Word × State :=
  (phaseAfter (s.ph a) (s.inc a) k, s.setPh a (wrap32 ((s.ph a).toNat + (s.inc a).toNat)))

/-! ### Around a command -/

/-- The host's list moves on (R45): the input at its head has been dealt with. -/
def State.dropInput (s : State) : State := { s with pending := s.pending.tail }

/-- The index of the next command advances by exactly one (R23). -/
def State.countCommand (s : State) : State := { s with index := s.index + 1 }

/-- Reset of the registers (R121). The host's list, the index, the responses and the record of errors are the run's
and stay (DESIGN CHOICE, log 4). -/
def State.resetRegs (s : State) : State := { s with regs := Regs.reset }

/-- A step's answer with a function applied to the next state. -/
def onNext (f : State → State) : Result → Result
  | .next s => .next (f s)
  | .fault r => .fault r
  | .refused r => .refused r

/-- What a command word that `decode` refuses does (R47, R107). -/
def illegalCommand (s : State) : Result := .next (s.raise .ill)

end Sys2Proof.Machine
end

