-- ==== Sys2Proof/Machine/Accumulator.lean ====
section
/-! DEFINITION. The eleven phase_accumulator commands (40_phase_accumulator.md R66 to R76). `a` is the accumulator the
A field selects. -/

namespace Sys2Proof.Machine

/-- ADV (R66): `respond(acc_advance(a, 0))`. -/
def execAdv (a : AccSel) (s : State) : Result :=
  let r := accAdvance a 0 s
  .next (r.2.respond r.1)

/-- ADVO (R67): `respond(acc_advance(a, k))`. -/
def execAdvo (a : AccSel) (k : Int) (s : State) : Result :=
  let r := accAdvance a k s
  .next (r.2.respond r.1)

/-- ISST (R68): responds 1 if the stored phase is below the increment, else 0. -/
def execIsst (a : AccSel) (s : State) : Result :=
  .next (s.respond (boolWord (s.regs.acc a).isStart))

/-- INC (R69): one increment forward, no output. -/
def execInc (a : AccSel) (s : State) : Result :=
  .next ((s.setPh a (wrap32 ((s.ph a).toNat + (s.inc a).toNat))).respond 0)

/-- DEC (R70): one increment back, no output. -/
def execDec (a : AccSel) (s : State) : Result :=
  .next ((s.setPh a (wrap32 ((s.ph a).toNat - (s.inc a).toNat))).respond 0)

/-- GETPH (R71). -/
def execGetph (a : AccSel) (s : State) : Result := .next (s.respond (s.ph a))

/-- SETPH (R72). -/
def execSetph (a : AccSel) (v : Word) (s : State) : Result := .next ((s.setPh a v).respond 0)

/-- GETINC (R73). -/
def execGetinc (a : AccSel) (s : State) : Result := .next (s.respond (s.inc a))

/-- SETINC (R74). -/
def execSetinc (a : AccSel) (v : Word) (s : State) : Result := .next ((s.setInc a v).respond 0)

/-- SETFREQ (R75): PV where the sample rate is 0, whatever the frequency; else the increment of R62. -/
def execSetfreq (a : AccSel) (freq sr : Word) (s : State) : Result :=
  if sr = 0 then .next (s.raise .pv)
  else .next ((s.setInc a (freqToInc freq sr)).respond 0)

/-- SETPER (R76): PV where the period is 0; else the increment of R63. -/
def execSetper (a : AccSel) (period : Word) (s : State) : Result :=
  if period = 0 then .next (s.raise .pv)
  else .next ((s.setInc a (periodToInc period)).respond 0)

end Sys2Proof.Machine
end

