-- ==== Sys2Proof/Machine/Control.lean ====
section
/-! DEFINITION. The status and control commands NOP, GETST and CLRST (44_status_and_control.md R103 to R105). -/

namespace Sys2Proof.Machine

/-- NOP (R103). -/
def execNop (s : State) : Result := .next (s.respond 0)

/-- GETST (R104): responds STATUS; reading does not clear. -/
def execGetst (s : State) : Result := .next (s.respond s.regs.statusWord)

/-- CLRST (R105): clears both bits at once. The run's record of errors stays (D22). -/
def execClrst (s : State) : Result := .next (s.clearStatus.respond 0)

end Sys2Proof.Machine
end

