-- ==== Sys2Proof/Machine/Sine.lean ====
section
/-! DEFINITION. sine_rom_lookup (41_sine_rom_lookup.md): the lookup of R81 and the command SIN of R83. -/

namespace Sys2Proof.Machine

/-- `SINE_LU(p)` (R81): the ROM entry at the top ten bits of the phase, no interpolation (DESIGN CHOICE, log 12). -/
def sineLu (p : Word) : Amp := rom (p.extractLsb' 22 10)

/-- SIN (R83): the amplitude at the phase PA0 held before its advance (R59, C1). -/
def execSin (s : State) : Result :=
  let r := accAdvance .pa0 0 s
  .next (r.2.respond (ampWord (sineLu r.1)))

end Sys2Proof.Machine
end

