-- ==== Sys2Proof/Machine/Fm.lean ====
section
/-! DEFINITION. fm_modulator_engine (43_fm_modulator_engine.md): the perturbation of R94, one evaluation (R95) and the
commands FM, FMO, GETG and SETG (R97 to R100). -/

namespace Sys2Proof.Machine

/-- `fm_pert(m, G)` (R94): the exact signed product, floored by 14 bits, wrapped. -/
def fmPert (m : Amp) (gain : Word) : Word := wrap32 (floorShift (m.toInt * gain.toNat) 14)

/-- `fm_eval(k)` (R95), in the source's order: the modulator PA1, its perturbation, the carrier PA0. The perturbation is
added to the phase that is looked up and to nothing stored (R96). -/
def fmEval (k : Int) (s : State) : Amp × State :=
  let rm := accAdvance .pa1 k s
  let pert := fmPert (sineLu rm.1) s.regs.gain
  let rc := accAdvance .pa0 k rm.2
  (sineLu (wrap32 (rc.1.toNat + pert.toNat)), rc.2)

/-- FM (R97): `fm_eval(0)`. -/
def execFm (s : State) : Result :=
  let r := fmEval 0 s
  .next (r.2.respond (ampWord r.1))

/-- FMO (R98): `fm_eval(k)`. -/
def execFmo (k : Int) (s : State) : Result :=
  let r := fmEval k s
  .next (r.2.respond (ampWord r.1))

/-- GETG (R99). -/
def execGetg (s : State) : Result := .next (s.respond s.regs.gain)

/-- SETG (R100). -/
def execSetg (v : Word) (s : State) : Result := .next ((s.setGain v).respond 0)

end Sys2Proof.Machine
end

