-- ==== Sys2Proof/Machine/Pulse.lean ====
section
/-! DEFINITION. pulse_comparator (42_pulse_comparator.md): the comparison of R86 and the commands PULSE, PULSEO, GETW
and SETW (R88 to R91). -/

namespace Sys2Proof.Machine

/-- `pulse_cmp(p)` against a width (R86, R87): +1.0 (16384) if `p` is above the width, unsigned and strict, else -1.0. -/
def pulseCmp (width p : Word) : Amp :=
  if p.toNat > width.toNat then BitVec.ofInt 16 16384 else BitVec.ofInt 16 (-16384)

/-- PULSE (R88): compares the phase PA0 held before its advance. -/
def execPulse (s : State) : Result :=
  let r := accAdvance .pa0 0 s
  .next (r.2.respond (ampWord (pulseCmp s.regs.width r.1)))

/-- PULSEO (R89): the same at sample offset `k`; the stored phase advances by one increment only. -/
def execPulseo (k : Int) (s : State) : Result :=
  let r := accAdvance .pa0 k s
  .next (r.2.respond (ampWord (pulseCmp s.regs.width r.1)))

/-- GETW (R90). -/
def execGetw (s : State) : Result := .next (s.respond s.regs.width)

/-- SETW (R91). -/
def execSetw (v : Word) (s : State) : Result := .next ((s.setWidth v).respond 0)

end Sys2Proof.Machine
end

