-- ==== Sys2Proof/Machine/Dispatch.lean ====
section
/-! DEFINITION. One arm per command, each a direct call of its meaning. -/

namespace Sys2Proof.Machine

def exec (i : Instr) (s : State) : Host.Outcome State Fault Refusal :=
  match i with
  | .nop => Sys2Proof.Machine.execNop s
  | .adv a => Sys2Proof.Machine.execAdv a s
  | .advo a k => Sys2Proof.Machine.execAdvo a k s
  | .isst a => Sys2Proof.Machine.execIsst a s
  | .inc a => Sys2Proof.Machine.execInc a s
  | .dec a => Sys2Proof.Machine.execDec a s
  | .getph a => Sys2Proof.Machine.execGetph a s
  | .setph a v => Sys2Proof.Machine.execSetph a v s
  | .getinc a => Sys2Proof.Machine.execGetinc a s
  | .setinc a v => Sys2Proof.Machine.execSetinc a v s
  | .setfreq a freq sr => Sys2Proof.Machine.execSetfreq a freq sr s
  | .setper a period => Sys2Proof.Machine.execSetper a period s
  | .sin => Sys2Proof.Machine.execSin s
  | .pulse => Sys2Proof.Machine.execPulse s
  | .pulseo k => Sys2Proof.Machine.execPulseo k s
  | .getw => Sys2Proof.Machine.execGetw s
  | .setw v => Sys2Proof.Machine.execSetw v s
  | .fm => Sys2Proof.Machine.execFm s
  | .fmo k => Sys2Proof.Machine.execFmo k s
  | .getg => Sys2Proof.Machine.execGetg s
  | .setg v => Sys2Proof.Machine.execSetg v s
  | .getst => Sys2Proof.Machine.execGetst s
  | .clrst => Sys2Proof.Machine.execClrst s

end Sys2Proof.Machine
end

