-- ==== Sys2Proof/Machine/Transaction.lean ====
section
/-! DEFINITION. One whole transaction (30_encoding.md R46): decoding before any command rule (R107, R112), then the
command or ILL, then the index (10_state.md R23). The step and the port both serve a command this way. -/

namespace Sys2Proof.Machine

/-- A transaction served whole (R37, R46, R47): the decoded command's meaning, or ILL for a word that is not legal;
either way the index advances by one (R23). -/
def transact (c : Command) (s : State) : Result :=
  match decode c with
  | .ok i => onNext State.countCommand (exec i s)
  | .illegal _ => onNext State.countCommand (illegalCommand s)

end Sys2Proof.Machine
end

