-- ==== Sys2Proof/Machine/Step.lean ====
section
/-! DEFINITION. One step of the run: the host's next input, dealt with whole (20_memory.md R41, R45), and the placing of
one transaction as that input. -/

namespace Sys2Proof.Machine

/-- One step. A command is served whole and leaves the host's list (R45); a reset pulse resets the registers (R121);
with nothing sent the block holds its state (R120). -/
def step (s : State) : Host.Outcome State Fault Refusal :=
  match s.pending with
  | [] => .next s
  | .reset :: _ => .next s.resetRegs.dropInput
  | .command c :: _ => onNext State.dropInput (transact c s)

/-- The host's next input replaced by one opcode-table row's transaction (DESIGN CHOICE, log 2). -/
def State.withFetchWord (s : State) (nbits w : Nat) : State :=
  { s with pending := .command (tableCommand nbits w) :: s.pending.tail }

end Sys2Proof.Machine
end

