-- ==== Sys2Proof/Config.lean ====
section
/-! DEFINITION. What a build or a host platform fixes and the spec leaves open (00_scope.md R7): LAT, QOSC_BASE and the
two port values R128 and R129 do not fix; and what word a host sends for a frequency that no operand word holds (R125).
Each is a constant with no body: nothing can be proved of its value. -/

namespace Sys2Proof

/-- LAT - 1 (R7, R129): the clocks of a build's latency above the least one. -/
opaque Config.latExtra : Nat

/-- LAT, the cycles from the acceptance of a command to its response: open, at least 1 (R7, R129, R130). -/
def Config.latency : Nat := Config.latExtra + 1

/-- Whether `cmd_ready` is 1 in a cycle that presents a response; R129 says only that it "may be 1 again in that same
cycle". The argument is the port's clock count. -/
opaque Config.readyWithResponse : Nat → Bool

/-- What `rsp` holds in a cycle where `rsp_valid` is 0 (R128 gives it a meaning only where `rsp_valid` is 1). The
argument is the port's clock count. -/
opaque Config.idleRsp : Nat → Word

/-- The FREQ operand word a host sends for a frequency in hertz that UQ16.16 does not hold: one that is no multiple of
1/65536 Hz, negative, or 65536 Hz or more (R125, R49; 92 D8). The host's choice, a free value (log 13). -/
opaque Config.inexactFrequency : Rat → Word

/-- QOSC_BASE (R7, R39): where the host platform places the block, if it is memory-mapped at all. No rule reads it. -/
opaque Config.qoscBase : Nat

end Sys2Proof
end

