-- ==== Sys2Proof/Machine/Boot.lean ====
section
/-! DEFINITION. The source's constructions as commands (70_reset_and_hazards.md R125) and a boot in the order of R124. -/

namespace Sys2Proof.Machine

/-- An integer number of hertz, or of samples, as a UQ16.16 operand word: `n * 65536` (R56). -/
def uq16 (n : Nat) : Word := wrap32 (n * 65536 : Nat)

/-- A frequency in hertz as the operand word `f * 65536` (R125, R49). Where that is no word (`f` off the grid of 1/65536
Hz, negative, or 65536 Hz or more) the spec gives no word, and it is the host's (DESIGN CHOICE, log 13: a free value). -/
def frequencyWord (f : Rat) : Word :=
  if f.den ∣ 65536 ∧ 0 ≤ f.num ∧ f.num * (65536 / f.den : Nat) < 2 ^ 32 then
    BitVec.ofInt 32 (f.num * (65536 / f.den : Nat))
  else Config.inexactFrequency f

/-- The software constructions of R125's table; a start phase is given to `bootInputs`. A frequency is
any rational number of hertz. -/
inductive Construction where
  | accIncrement (a : AccSel) (d : Word)
  | accFrequency (a : AccSel) (f : Rat) (sr : Word)
  | sine (f : Rat) (sr : Word)
  | pulse (f : Rat) (sr w : Word)
  | fm (fc fmod : Rat) (sr g : Word)
deriving DecidableEq, Repr

/-- The commands of a construction that set its accumulators (R125). -/
def Construction.increments : Construction → List Instr
  | .accIncrement a d => [.setinc a d]
  | .accFrequency a f sr => [.setfreq a (frequencyWord f) sr]
  | .sine f sr => [.setfreq .pa0 (frequencyWord f) sr]
  | .pulse f sr _ => [.setfreq .pa0 (frequencyWord f) sr]
  | .fm fc fmod sr _ => [.setfreq .pa0 (frequencyWord fc) sr, .setfreq .pa1 (frequencyWord fmod) sr]

/-- The commands of a construction that set its threshold or its gain (R125). -/
def Construction.shape : Construction → List Instr
  | .accIncrement _ _ => []
  | .accFrequency _ _ _ => []
  | .sine _ _ => []
  | .pulse _ _ w => [.setw w]
  | .fm _ _ _ g => [.setg g]

/-- The inputs of a boot in the order of R124: a reset pulse, the increments, the start phases other than 0, then the
threshold or the gain (of the orders R124 calls equal, DESIGN CHOICE, log 13). Only then do sample calls follow. -/
def bootInputs (c : Construction) (phases : List (AccSel × Word)) : List HostInput :=
  .reset :: (c.increments ++ phases.map (fun x => Instr.setph x.1 x.2) ++ c.shape).map
    (fun i => .command (encode i))

end Sys2Proof.Machine
end

