-- ==== Sys2Proof/Machine/Assembler.lean ====
section
/-! DEFINITION. The assembler syntax of a command line (30_encoding.md R55) and the pseudo-instructions (R56). It is the
host's side only: the block sees command words (D31). -/

namespace Sys2Proof.Machine

/-! ### Pseudo-instructions (R56) -/

/-- The six pseudo-instructions of R56. `setwfrac num den` is the threshold fraction `num / den`. -/
inductive Pseudo where
  | rstph (a : AccSel)
  | sethz (a : AccSel) (f : Nat) (sr : Word)
  | setpern (a : AccSel) (n : Nat)
  | square
  | setwfrac (num den : Nat)
  | adv0 (a : AccSel)
deriving DecidableEq, Repr

/-- The ranges of R56's notes. -/
def Pseudo.inRange : Pseudo → Bool
  | .rstph _ => true
  | .sethz _ f _ => decide (f < 65536)
  | .setpern _ n => decide (1 ≤ n ∧ n < 65536)
  | .square => true
  | .setwfrac num den => decide (num < den)
  | .adv0 _ => true

/-- The expansions of R56. -/
def Pseudo.expand : Pseudo → Instr
  | .rstph a => .setph a 0
  | .sethz a f sr => .setfreq a (uq16 f) sr
  | .setpern a n => .setper a (uq16 n)
  | .square => .setw 0x80000000
  | .setwfrac num den => .setw (wrap32 ((num * 2 ^ 32 / den : Nat) : Int))
  | .adv0 a => .advo a 0

/-! ### Numbers and operands (R8, R55) -/

/-- Space and tab separate nothing inside an operand and are dropped around it (DESIGN CHOICE, log 7). -/
def isBlank (c : Char) : Bool := c == ' ' || c == '\t'

/-- The characters without the blanks at either end. -/
def trim (cs : List Char) : List Char := ((cs.dropWhile isBlank).reverse.dropWhile isBlank).reverse

/-- The pieces between occurrences of a separator. -/
def splitAtChar (sep : Char) : List Char → List (List Char)
  | [] => [[]]
  | c :: cs =>
    if c == sep then [] :: splitAtChar sep cs
    else
      match splitAtChar sep cs with
      | [] => [[c]]
      | piece :: rest => (c :: piece) :: rest

/-- The value of a digit in a base of at most 16; hexadecimal letters in either case (DESIGN CHOICE, log 7). -/
def digitValue (base : Nat) (c : Char) : Option Nat :=
  let v :=
    if '0' ≤ c ∧ c ≤ '9' then some (c.toNat - '0'.toNat)
    else if 'a' ≤ c ∧ c ≤ 'f' then some (c.toNat - 'a'.toNat + 10)
    else if 'A' ≤ c ∧ c ≤ 'F' then some (c.toNat - 'A'.toNat + 10)
    else none
  v.filter (· < base)

/-- Digits after a prefix already read as `acc`. An `_` after the first digit is dropped wherever it stands, doubled or
last too (DESIGN CHOICE, log 7: R8 gives `_` for the spec's own literals, and R55 gives none in assembler text). -/
def digitsFrom (base : Nat) : Nat → List Char → Option Nat
  | acc, [] => some acc
  | acc, c :: cs =>
    if c == '_' then digitsFrom base acc cs
    else
      match digitValue base c with
      | some d => digitsFrom base (acc * base + d) cs
      | none => none

/-- A run of digits that begins with a digit; an `_` before it is an error (DESIGN CHOICE, log 7). -/
def digits (base : Nat) (cs : List Char) : Option Nat :=
  match cs with
  | [] => none
  | c :: rest =>
    match digitValue base c with
    | some d => digitsFrom base d rest
    | none => none

/-- A number that is not negative: `0x` hexadecimal or decimal (R55); `0X` is an error (DESIGN CHOICE, log 7). -/
def natural : List Char → Option Nat
  | '0' :: 'x' :: ds => digits 16 ds
  | ds => digits 10 ds

/-- An operand word. A number of 2^32 or more is an error and does not wrap (DESIGN CHOICE, log 7: R55 does not say). -/
def wordOperand (cs : List Char) : Option Word :=
  match natural cs with
  | some n => if n < 2 ^ 32 then some (BitVec.ofNat 32 n) else none
  | none => none

/-- A sample offset: decimal, optionally negative (R55), and an error outside the range of an `s32`; or the hexadecimal of
its operand word (both DESIGN CHOICE, log 7). -/
def offsetOperand (cs : List Char) : Option Int :=
  match cs with
  | '0' :: 'x' :: _ => (wordOperand cs).map sext32
  | '-' :: ds => ((digits 10 ds).map (fun n => -(n : Int))).filter (fun k => decide (IsS32 k))
  | ds => ((digits 10 ds).map (fun n => (n : Int))).filter (fun k => decide (IsS32 k))

/-- A threshold fraction as a decimal, with or without a point (DESIGN CHOICE, log 7): its digits over the power of ten of
the digits after the point. -/
def fractionOperand (cs : List Char) : Option (Nat × Nat) :=
  match splitAtChar '.' cs with
  | [whole] => (digits 10 whole).map (fun n => (n, 1))
  | [whole, part] => (digits 10 (whole ++ part)).map (fun n => (n, 10 ^ (part.filter (· != '_')).length))
  | _ => none

/-- The accumulator operand `a0` or `a1`. -/
def accOperand (cs : List Char) : Option AccSel :=
  if cs = ['a', '0'] then some .pa0 else if cs = ['a', '1'] then some .pa1 else none

/-! ### A line (R55) -/

/-- The mnemonic column of R51. -/
def opMnemonic : Op → String
  | .nop => "NOP"
  | .adv => "ADV"
  | .advo => "ADVO"
  | .isst => "ISST"
  | .inc => "INC"
  | .dec => "DEC"
  | .getph => "GETPH"
  | .setph => "SETPH"
  | .getinc => "GETINC"
  | .setinc => "SETINC"
  | .setfreq => "SETFREQ"
  | .setper => "SETPER"
  | .sin => "SIN"
  | .pulse => "PULSE"
  | .pulseo => "PULSEO"
  | .getw => "GETW"
  | .setw => "SETW"
  | .fm => "FM"
  | .fmo => "FMO"
  | .getg => "GETG"
  | .setg => "SETG"
  | .getst => "GETST"
  | .clrst => "CLRST"

/-- How a command reads its operand words (R49). -/
inductive OperandShape where
  | none
  | offset
  | word
  | twoWords
deriving DecidableEq, Repr

/-- The operand columns of R49. -/
def opShape : Op → OperandShape
  | .nop => .none
  | .adv => .none
  | .advo => .offset
  | .isst => .none
  | .inc => .none
  | .dec => .none
  | .getph => .none
  | .setph => .word
  | .getinc => .none
  | .setinc => .word
  | .setfreq => .twoWords
  | .setper => .word
  | .sin => .none
  | .pulse => .none
  | .pulseo => .offset
  | .getw => .none
  | .setw => .word
  | .fm => .none
  | .fmo => .offset
  | .getg => .none
  | .setg => .word
  | .getst => .none
  | .clrst => .none

/-- The operand words an operand list assembles to; an omitted one is 0 (R55) and a superfluous one an error (DESIGN
CHOICE, log 7). -/
def operandWords (shape : OperandShape) (ops : List (List Char)) : Option (Word × Word) :=
  match shape, ops with
  | _, [] => some (0, 0)
  | .offset, [k] => (offsetOperand k).map (fun x => (BitVec.ofInt 32 x, 0))
  | .word, [v] => (wordOperand v).map (fun x => (x, 0))
  | .twoWords, [v] => (wordOperand v).map (fun x => (x, 0))
  | .twoWords, [v, w] =>
    match wordOperand v, wordOperand w with
    | some x, some y => some (x, y)
    | _, _ => none
  | _, _ => none

/-- A command of the opcode map with its operands (R55). -/
def opLine (o : Op) (ops : List (List Char)) : Option Instr :=
  match o.cls, ops with
  | .acc, a :: rest =>
    match accOperand a, operandWords (opShape o) rest with
    | some x, some w => some (assemble o x w.1 w.2)
    | _, _ => none
  | .acc, [] => none
  | .gen, ops => (operandWords (opShape o) ops).map (fun w => assemble o .pa0 w.1 w.2)
  | .ctl, ops => (operandWords (opShape o) ops).map (fun w => assemble o .pa0 w.1 w.2)

/-- A pseudo-instruction with its operands (R56), every operand written (DESIGN CHOICE, log 7). -/
def pseudoLine (m : List Char) (ops : List (List Char)) : Option Pseudo :=
  match ops with
  | [] => if m = "SQUARE".toList then some .square else none
  | [x] =>
    if m = "RSTPH".toList then (accOperand x).map .rstph
    else if m = "ADV0".toList then (accOperand x).map .adv0
    else if m = "SETWFRAC".toList then (fractionOperand x).map (fun t => .setwfrac t.1 t.2)
    else none
  | [x, y] =>
    if m = "SETPERN".toList then
      match accOperand x, natural y with
      | some a, some n => some (.setpern a n)
      | _, _ => none
    else none
  | [x, y, z] =>
    if m = "SETHZ".toList then
      match accOperand x, natural y, wordOperand z with
      | some a, some f, some sr => some (.sethz a f sr)
      | _, _, _ => none
    else none
  | _ => none

/-- What a line of assembler text is. `blank` is a line with no command (DESIGN CHOICE, log 7). -/
inductive AsmLine where
  | blank
  | command (i : Instr)
  | error
deriving DecidableEq, Repr

/-- A line without its comment, which `;` starts (R55). -/
def stripComment (line : List Char) : List Char := trim (line.takeWhile (· != ';'))

/-- The operands of a line, separated by commas; none where nothing follows the mnemonic. -/
def operandList (cs : List Char) : List (List Char) :=
  if trim cs = [] then [] else (splitAtChar ',' cs).map trim

/-- A mnemonic with its operands: a row of R51, or a pseudo-instruction within the range of R56's note. Any other
mnemonic, and a pseudo-instruction out of its range, is an error (DESIGN CHOICE, log 7). -/
def bodyLine (m : List Char) (ops : List (List Char)) : Option Instr :=
  match Op.all.find? (fun o => (opMnemonic o).toList == m) with
  | some o => opLine o ops
  | none =>
    match pseudoLine m ops with
    | some p => if p.inRange then some p.expand else none
    | none => none

/-- One line of assembler text: one command (R55) or an error. A line that holds nothing but blanks and a comment is
accepted and assembles to no command (DESIGN CHOICE, log 7: R55 says one command per line and nothing of such a line). -/
def assembleLine (line : List Char) : AsmLine :=
  match stripComment line with
  | [] => .blank
  | c :: cs =>
    match bodyLine ((c :: cs).takeWhile (fun x => !isBlank x)) (operandList ((c :: cs).dropWhile (fun x => !isBlank x))) with
    | some i => .command i
    | none => .error

end Sys2Proof.Machine
end

