-- ==== Sys2Proof/Machine/Port.lean ====
section
/-! DEFINITION. The command port at clock level (70_reset_and_hazards.md R122, R128 to R130): the pins, the handshake, the
latency LAT and the synchronous reset. A command is served whole by `transact`; when inside its latency the registers
change is not visible outside (R122, DEDUCED and DESIGN CHOICE, log 5). -/

namespace Sys2Proof.Machine

/-- The input pins of R128 as sampled on one rising edge of `clk`; `word` is `cmd`, `opa` and `opb`. -/
structure PortIn where
  rstN     : Bool
  cmdValid : Bool
  word     : Command
deriving DecidableEq, Repr

/-- The output pins of R128 during one clock cycle. -/
structure PortOut where
  cmdReady : Bool
  rspValid : Bool
  rsp      : Word
deriving DecidableEq, Repr

/-- A command accepted and not yet answered, and the clocks left before the edge that presents its response. -/
structure Flight where
  command : Command
  left    : Nat
deriving DecidableEq, Repr

/-- The block with its port: the instance and its run, the command in flight, the response presented in this cycle,
and a clock count that only selects the free values of Config (DEDUCED and DESIGN CHOICE, log 5). -/
structure Port where
  block  : State
  flight : Option Flight
  rsp    : Option Word
  cycle  : Nat
deriving DecidableEq, Repr

/-- `cmd_ready` (R129): 0 from acceptance until the response is presented; open in the cycle that presents it; 1 when
nothing is in flight (DEDUCED and DESIGN CHOICE, log 5). -/
def Port.ready (p : Port) : Bool :=
  match p.flight, p.rsp with
  | some _, _ => false
  | none, some _ => Config.readyWithResponse p.cycle
  | none, none => true

/-- The output pins of a cycle (R128): `rsp` holds a response exactly while `rsp_valid` is 1. -/
def Port.out (p : Port) : PortOut :=
  { cmdReady := p.ready
    rspValid := p.rsp.isSome
    rsp := p.rsp.getD (Config.idleRsp p.cycle) }

/-- A command is accepted on an edge where `cmd_valid`, `cmd_ready` and `rst_n` are all 1 (R129). -/
def Port.accepts (p : Port) (pins : PortIn) : Bool := pins.rstN && pins.cmdValid && p.ready

/-- The edge that completes a command: its writes are made and its response is presented (R45, R129). Every
transaction ends in a next state; the other two outcomes present nothing. -/
def Port.complete (c : Command) (p : Port) : Port :=
  match transact c p.block with
  | .next t => { p with block := t, flight := none, rsp := t.responses.getLast? }
  | .fault _ => { p with flight := none, rsp := none }
  | .refused _ => { p with flight := none, rsp := none }

/-- A command with `left` clocks still to go before the edge that completes it. -/
def Port.proceed (c : Command) (left : Nat) (p : Port) : Port :=
  match left with
  | 0 => p.complete c
  | n + 1 => { p with flight := some ⟨c, n⟩, rsp := none }

/-- The edge on which `rst_n` is 0 (R122): the registers are reset and a command in flight is lost, with its response. -/
def Port.resetEdge (p : Port) : Port :=
  { p with block := p.block.resetRegs, flight := none, rsp := none }

/-- One rising edge of `clk`. -/
def Port.tick (pins : PortIn) (p : Port) : Port :=
  let q := { p with cycle := p.cycle + 1 }
  if pins.rstN = false then q.resetEdge
  else
    match p.flight with
    | some f => q.proceed f.command f.left
    | none => if p.accepts pins then q.proceed pins.word Config.latExtra else { q with rsp := none }

/-- The port after a list of edges, the first pins first. -/
def Port.run : List PortIn → Port → Port
  | [], p => p
  | pins :: rest, p => Port.run rest (p.tick pins)

/-- The port right after the reset of a fresh run (R121, R122): nothing in flight, nothing presented. -/
def Port.reset : Port := { block := State.reset, flight := none, rsp := none, cycle := 0 }

end Sys2Proof.Machine
end

