-- ==== Sys2Proof/Safety.lean ====
section
/-! DEFINITION. The terms claims are made in: the registers by name with the "read by" and "written by" columns of
10_state.md R18, the sample calls of 00_scope.md R16, which inputs raise an error (60_exceptions.md R107, R108), the
runs without one (R110, D22), and the bookkeeping every step keeps. -/

namespace Sys2Proof.Machine

/-! ### The registers of R18 by name -/

/-- The seven registers of R18. -/
inductive RegName where
  | ph (a : AccSel)
  | inc (a : AccSel)
  | width
  | gain
  | status
deriving DecidableEq, Repr

/-- The 32-bit value of a register. -/
def Regs.read (r : Regs) : RegName → Word
  | .ph .pa0 => r.pa0.ph
  | .ph .pa1 => r.pa1.ph
  | .inc .pa0 => r.pa0.inc
  | .inc .pa1 => r.pa1.inc
  | .width => r.width
  | .gain => r.gain
  | .status => r.statusWord

/-- The registers a command reads: R18's column "read by". -/
def instrReads : Instr → List RegName
  | .adv a => [.ph a, .inc a]
  | .advo a _ => [.ph a, .inc a]
  | .isst a => [.ph a, .inc a]
  | .inc a => [.ph a, .inc a]
  | .dec a => [.ph a, .inc a]
  | .getph a => [.ph a]
  | .getinc a => [.inc a]
  | .sin => [.ph .pa0, .inc .pa0]
  | .pulse => [.ph .pa0, .inc .pa0, .width]
  | .pulseo _ => [.ph .pa0, .inc .pa0, .width]
  | .getw => [.width]
  | .fm => [.ph .pa0, .inc .pa0, .ph .pa1, .inc .pa1, .gain]
  | .fmo _ => [.ph .pa0, .inc .pa0, .ph .pa1, .inc .pa1, .gain]
  | .getg => [.gain]
  | .getst => [.status]
  | .nop => []
  | .setph _ _ => []
  | .setinc _ _ => []
  | .setfreq _ _ _ => []
  | .setper _ _ => []
  | .setw _ => []
  | .setg _ => []
  | .clrst => []

/-- The registers a command may write: R18's column "written by" (STATUS by SETFREQ and SETPER where they raise PV). -/
def instrWrites : Instr → List RegName
  | .adv a => [.ph a]
  | .advo a _ => [.ph a]
  | .inc a => [.ph a]
  | .dec a => [.ph a]
  | .setph a _ => [.ph a]
  | .setinc a _ => [.inc a]
  | .setfreq a _ _ => [.inc a, .status]
  | .setper a _ => [.inc a, .status]
  | .sin => [.ph .pa0]
  | .pulse => [.ph .pa0]
  | .pulseo _ => [.ph .pa0]
  | .setw _ => [.width]
  | .fm => [.ph .pa0, .ph .pa1]
  | .fmo _ => [.ph .pa0, .ph .pa1]
  | .setg _ => [.gain]
  | .clrst => [.status]
  | .nop => []
  | .isst _ => []
  | .getph _ => []
  | .getinc _ => []
  | .getw => []
  | .getg => []
  | .getst => []

/-- A "sample call" (R16): ADV, ADVO, INC, DEC, SIN, PULSE, PULSEO, FM or FMO. -/
def isSampleCall (i : Instr) : Bool :=
  i.op ∈ [Op.adv, .advo, .inc, .dec, .sin, .pulse, .pulseo, .fm, .fmo]

/-! ### Errors of a run -/

/-- The error a decoded command raises: PV for SETFREQ with SR = 0 and for SETPER with PERIOD = 0 (R108). -/
def instrError : Instr → Option Fault
  | .setfreq _ _ sr => if sr = 0 then some .pv else none
  | .setper _ period => if period = 0 then some .pv else none
  | .nop => none
  | .adv _ => none
  | .advo _ _ => none
  | .isst _ => none
  | .inc _ => none
  | .dec _ => none
  | .getph _ => none
  | .setph _ _ => none
  | .getinc _ => none
  | .setinc _ _ => none
  | .sin => none
  | .pulse => none
  | .pulseo _ => none
  | .getw => none
  | .setw _ => none
  | .fm => none
  | .fmo _ => none
  | .getg => none
  | .setg _ => none
  | .getst => none
  | .clrst => none

/-- The error a transaction raises: ILL for a word that is not legal (R107), else its command's. At most one (R112). -/
def commandError (c : Command) : Option Fault :=
  match decode c with
  | .ok i => instrError i
  | .illegal _ => some .ill

/-- A run without an error: the premise of 92 D22. -/
def Faultless (s : State) : Prop := s.faults = []

/-- The run's bookkeeping: one response for each command served (R46), each recorded error the error of one earlier
command that was answered 0 (R106), in order, and a STATUS bit at 1 only where such an error is on record (R113). -/
structure Accounted (s : State) : Prop where
  one_response : s.responses.length = s.index
  errors_answered_zero : ∀ e ∈ s.faults, s.responses[e.index]? = some 0
  errors_in_order : s.faults.Pairwise (fun e f => e.index < f.index)
  ill_recorded : s.regs.ill = true → ∃ e ∈ s.faults, e.kind = .ill
  pv_recorded : s.regs.pv = true → ∃ e ∈ s.faults, e.kind = .pv

/-! ### Runs of one command -/

/-- The host issues the same command `n` times, nothing else (R132: "A host wanting N samples issues N commands"). -/
def issue (n : Nat) (i : Instr) (s : State) : Result :=
  Host.Core.run Sys2Proof.core n { s with pending := List.replicate n (.command (encode i)) }

/-- The phase an accumulator of a state holds after `j` advances: `wrap32(p + j * d)` (R77, R80). -/
def phaseAt (a : AccSel) (s : State) (j : Nat) : Word := s.ph a + BitVec.ofNat 32 j * s.inc a

end Sys2Proof.Machine
end

