-- ==== Sys2Proof/Certificates/Slice0/Obligations.lean ====
section
/-! DEFINITION. The statements for the provers, each with the rule of the spec it formalises. -/

open Sys2Proof Sys2Proof.Machine

/-! ### Encoding -/

/-- 30_encoding.md R48, R49, R54: decoding the encoding of a well-formed command gives it back, every operand at every
value the encoding admits. -/
def Obligations.DecodeEncodeRoundTrip : Prop :=
  ∀ i : Instr, WellFormed i → decode (encode i) = .ok i

/-- The other direction: a transaction that decodes gives a well-formed command, whose encoding has the same command
word and decodes to it again. -/
def Obligations.DecodedCommandReencodes : Prop :=
  ∀ (c : Command) (i : Instr), decode c = .ok i →
    WellFormed i ∧ (encode i).cmd = c.cmd ∧ decode (encode i) = .ok i

/-- R47: a word that meets the three conditions decodes, whatever the operand words; any other sets ILL, is answered 0
and changes no other register. -/
def Obligations.LegalityAsInR47 : Prop :=
  ∀ w : Word,
    (LegalWord w ↔
      cmdHigh w = 0 ∧ (∃ o : Op, cmdOp w = o.code) ∧ (cmdA w = false ∨ ∃ o : Op, cmdOp w = o.code ∧ o.cls = .acc)) ∧
    (LegalWord w → ∀ opa opb : Word, ∃ i, decode ⟨w, opa, opb⟩ = .ok i) ∧
    (¬ LegalWord w → ∀ (opa opb : Word) (s : State), ∃ t, transact ⟨w, opa, opb⟩ s = .next t ∧
      t.regs = { s.regs with ill := true } ∧ t.responses = s.responses ++ [0])

/-- R107: an opcode absent from the map, a nonzero bit in cmd[31:9], or A = 1 on a class "gen" or "ctl" opcode: the step
sets STATUS.ILL, answers 0 and does nothing else. -/
def Obligations.IllegalCommandSetsIll : Prop :=
  ∀ (s : State) (c : Command) (rest : List HostInput), s.pending = .command c :: rest →
    ((∀ o : Op, cmdOp c.cmd ≠ o.code) ∨ cmdHigh c.cmd ≠ 0 ∨
      (cmdA c.cmd = true ∧ ∃ o : Op, cmdOp c.cmd = o.code ∧ (o.cls = .gen ∨ o.cls = .ctl))) →
    ∃ t, step s = .next t ∧ t.regs = { s.regs with ill := true } ∧ t.responses = s.responses ++ [0]

/-- R51: a command word selects a row of the opcode map by its mask and match exactly when it decodes to that row's
operation. -/
def Obligations.OpcodeRowSelectsItsOperation : Prop :=
  ∀ (c : Command) (o : Op), o.selects c.cmd ↔ ∃ i, decode c = .ok i ∧ i.op = o

/-- A few words written out from R51 and 95_test_vectors.md decode as the spec has them. -/
def Obligations.SpecWordsDecodeAsWritten : Prop :=
  decode ⟨0x00000101, 0, 0⟩ = .ok (.adv .pa1) ∧
  decode ⟨0x00000102, 0xFFFFFFFD, 0⟩ = .ok (.advo .pa1 (-3)) ∧
  decode ⟨0x0000000A, 0x01B80000, 0x0000AC44⟩ = .ok (.setfreq .pa0 0x01B80000 44100) ∧
  decode ⟨0x00000010, 0xFFFFFFFF, 0xFFFFFFFF⟩ = .ok .sin ∧
  decode ⟨0x00000013, 0x80000000, 0⟩ = .ok (.pulseo (-2147483648)) ∧
  decode ⟨0x00000019, 0x7FFFFFFF, 0⟩ = .ok (.fmo 2147483647) ∧
  decode ⟨0x00000021, 0, 0⟩ = .ok .clrst ∧
  decode ⟨0x00000011, 0, 0⟩ = .illegal .noOpcode ∧
  decode ⟨0x00000110, 0, 0⟩ = .illegal .selectNotAcc ∧
  decode ⟨0x00000201, 0, 0⟩ = .illegal .highBits

/-- R50: every command is answered by exactly one word of its row's kind. -/
def Obligations.ResponsesHaveTheirKind : Prop :=
  ∀ (i : Instr) (s : State), ∃ t v, exec i s = .next t ∧ t.responses = s.responses ++ [v] ∧
    match i.op.response with
    | .none => v = 0
    | .bool => v = 0 ∨ v = 1
    | .amp => ∃ m : Amp, v = m.signExtend 32
    | .status => v = s.regs.statusWord
    | .phase => True

/-! ### The step -/

/-- The step runs the decoded command: `exec`'s next state, with the input dropped from the host's list and the index
one on. -/
def Obligations.StepRunsDecodedCommand : Prop :=
  ∀ (s : State) (c : Command) (rest : List HostInput) (i : Instr),
    s.pending = .command c :: rest → decode c = .ok i →
    ∃ t, exec i s = .next t ∧ step s = .next { t with pending := rest, index := s.index + 1 }

/-- 70_reset_and_hazards.md R121: reset writes every register to its reset value, from any state. -/
def Obligations.ResetWritesEveryRegister : Prop :=
  (∀ (s : State) (rest : List HostInput), s.pending = .reset :: rest → ∃ t, step s = .next t ∧
    t.regs.pa0 = ⟨0x00000000, 0x00000000⟩ ∧ t.regs.pa1 = ⟨0x00000000, 0x00000000⟩ ∧
    t.regs.width = 0x80000000 ∧ t.regs.gain = 0x00000000 ∧ t.regs.statusWord = 0x00000000) ∧
  State.reset.regs.pa0 = ⟨0x00000000, 0x00000000⟩ ∧ State.reset.regs.pa1 = ⟨0x00000000, 0x00000000⟩ ∧
  State.reset.regs.width = 0x80000000 ∧ State.reset.regs.gain = 0x00000000 ∧
  State.reset.regs.statusWord = 0x00000000

/-- What the step does where no command is served, the model's choices: with nothing sent the block holds its state, as
the model reads R120 (DEDUCED, log 3); at a reset pulse inside a run the host's list moves on, and the index, the responses
and the record of errors stay (DESIGN CHOICE, log 4). -/
def Obligations.IdleAndResetSteps : Prop :=
  (∀ s : State, s.pending = [] → step s = .next s) ∧
  ∀ (s : State) (rest : List HostInput), s.pending = .reset :: rest →
    step s = .next { s with regs := Regs.reset, pending := rest }

/-- 60_exceptions.md R106 and 70_reset_and_hazards.md R130: every step completes; none ends in a fault or a refusal. That
an ILL or a PV, which R13 and D22 have a model treat as a fault of the run, is put on record in a next state is the
model's reading (DEDUCED, log 1), and so is that a step with nothing pending answers a next state (DEDUCED from R120,
log 3). -/
def Obligations.EveryStepCompletes : Prop :=
  ∀ s : State, ∃ t, step s = .next t

/-- 10_state.md R23: the index starts at 0 and advances by exactly one per command, whatever the command does, errors
included, and the next command in the host's list is the next one served. -/
def Obligations.IndexAdvancesByOnePerCommand : Prop :=
  State.reset.index = 0 ∧
  ∀ (s : State) (c : Command) (rest : List HostInput), s.pending = .command c :: rest →
    ∃ t, step s = .next t ∧ t.index = s.index + 1 ∧ t.pending = rest

/-! ### Invariants and whole-machine rules -/

/-- R46, R106, R113, R110: every step keeps the run's bookkeeping. The record of errors in `Accounted` is the model's
reading of R110 and D22 (DEDUCED, log 1). That index, responses and record stay at a reset pulse inside a run is the
model's choice (DESIGN CHOICE, log 4), and that a step with nothing pending changes none of them is its reading of R120
(DEDUCED, log 3). -/
def Obligations.AccountedKeptByEveryStep : Prop :=
  ∀ s t : State, Accounted s → step s = .next t → Accounted t

/-- The bookkeeping, with the record of log 1 (DEDUCED), holds at reset. -/
def Obligations.AccountedAtReset : Prop := Accounted State.reset

/-- The premise of 92 D22 along a run: from a state with no error on record, a run whose commands raise none keeps it so,
STATUS reads 0 and every step completes. The record is the model's (DEDUCED, log 1). The run may cross reset pulses, where
index, responses and record stay by the model's choice (DESIGN CHOICE, log 4), and may go on past the end of the list,
where the block holds its state by the model's reading of R120 (DEDUCED, log 3; D32 does not say). -/
def Obligations.ErrorFreeRunsStayFaultless : Prop :=
  ∀ (n : Nat) (s : State), Accounted s → Faultless s →
    (∀ c : Command, .command c ∈ s.pending → commandError c = none) →
    ∃ t, Host.Core.run Sys2Proof.core n s = .next t ∧ Accounted t ∧ Faultless t ∧ t.regs.statusWord = 0

/-- 10_state.md R18, column "written by": a command changes no register outside its list. -/
def Obligations.OnlyListedRegistersAreWritten : Prop :=
  ∀ (i : Instr) (s t : State) (r : RegName), exec i s = .next t → r ∉ instrWrites i →
    t.regs.read r = s.regs.read r

/-- 10_state.md R18, column "read by": two states that agree on what a command reads are answered alike, and agree after
it on every register they agreed on before or that no PV keeps from being written. -/
def Obligations.OnlyListedRegistersAreRead : Prop :=
  ∀ (i : Instr) (s u : State), (∀ r ∈ instrReads i, s.regs.read r = u.regs.read r) →
    ∃ s' u' v, exec i s = .next s' ∧ exec i u = .next u' ∧
      s'.responses = s.responses ++ [v] ∧ u'.responses = u.responses ++ [v] ∧
      (∀ r, s.regs.read r = u.regs.read r → s'.regs.read r = u'.regs.read r) ∧
      (∀ r ∈ instrWrites i, r ≠ .status → instrError i = none → s'.regs.read r = u'.regs.read r)

/-- R21, R109: no sample call writes STATUS or raises anything. -/
def Obligations.SampleCallsNeverRaise : Prop :=
  ∀ (i : Instr) (s : State), isSampleCall i = true →
    ∃ t, exec i s = .next t ∧ t.regs.statusWord = s.regs.statusWord ∧ t.faults = s.faults

/-- R107, R108, R112, and the record of R110 (DEDUCED, log 1): a transaction raises its one error or none; the error sets its own
bit, keeps the other, is recorded with the command's index, is answered 0 and writes nothing else. -/
def Obligations.ErrorsAreRaisedExactly : Prop :=
  ∀ (c : Command) (s : State), ∃ t, transact c s = .next t ∧
    match commandError c with
    | none => t.faults = s.faults
    | some .ill => t = { s with
        regs := { s.regs with ill := true }, responses := s.responses ++ [0],
        faults := s.faults ++ [⟨s.index, .ill⟩], index := s.index + 1 }
    | some .pv => t = { s with
        regs := { s.regs with pv := true }, responses := s.responses ++ [0],
        faults := s.faults ++ [⟨s.index, .pv⟩], index := s.index + 1 }

/-- R113: the STATUS bits accumulate; no transaction but CLRST clears one. -/
def Obligations.StatusBitsAreSticky : Prop :=
  ∀ (c : Command) (s t : State), transact c s = .next t → decode c ≠ .ok .clrst →
    (s.regs.ill = true → t.regs.ill = true) ∧ (s.regs.pv = true → t.regs.pv = true)

/-- 10_state.md R26: the response and the registers after a command depend only on the seven registers and the command,
not on the index, the host's list, earlier responses or earlier errors. -/
def Obligations.OutputsDependOnRegistersAndCommand : Prop :=
  ∀ (c : Command) (s u : State), s.regs = u.regs →
    ∃ s' u' v, transact c s = .next s' ∧ transact c u = .next u' ∧ s'.regs = u'.regs ∧
      s'.responses = s.responses ++ [v] ∧ u'.responses = u.responses ++ [v]

/-- 20_memory.md R38: the read-only commands leave every register and answer alike when issued twice; the setters and
CLRST leave, issued twice, what they leave issued once. -/
def Obligations.ReadOnlyAndIdempotentCommands : Prop :=
  (∀ (i : Instr) (s : State), i.op ∈ [Op.nop, .isst, .getph, .getinc, .getw, .getg, .getst] →
    ∃ t u v, exec i s = .next t ∧ exec i t = .next u ∧ t.regs = s.regs ∧ u.regs = s.regs ∧
      u.responses = s.responses ++ [v, v]) ∧
  (∀ (i : Instr) (s : State), i.op ∈ [Op.setph, .setinc, .setfreq, .setper, .setw, .setg, .clrst] →
    ∃ t u, exec i s = .next t ∧ exec i t = .next u ∧ u.regs = t.regs)

/-- 70_reset_and_hazards.md R124 in general: two commands that write nothing the other reads or writes leave the same
registers in either order. -/
def Obligations.IndependentCommandsCommute : Prop :=
  ∀ (i j : Instr) (s : State),
    (∀ r ∈ instrWrites i, r ∉ instrReads j ∧ r ∉ instrWrites j) → (∀ r ∈ instrWrites j, r ∉ instrReads i) →
    ∃ t u t' u', exec i s = .next t ∧ exec j t = .next u ∧ exec j s = .next t' ∧ exec i t' = .next u' ∧
      u.regs = u'.regs

/-! ### phase_accumulator -/

/-- 00_scope.md R9: `wrap32` gives the residue modulo 2^32, negative arguments included. -/
def Obligations.Wrap32IsTheResidue : Prop :=
  ∀ x : Int, ((wrap32 x).toNat : Int) = x % 2 ^ 32

/-- 40_phase_accumulator.md R57, R58: the probe is `p + k * d` modulo 2^32, equally a 32-bit wrapping multiply and add;
the stored phase advances by exactly one increment whatever `k` is, and nothing else is written. -/
def Obligations.ProbeAndSingleAdvance : Prop :=
  ∀ (a : AccSel) (k : Int) (s : State),
    (((accAdvance a k s).1.toNat : Int) = ((s.ph a).toNat + k * (s.inc a).toNat) % 2 ^ 32) ∧
    (accAdvance a k s).1 = s.ph a + wrap32 k * s.inc a ∧
    (accAdvance a k s).2 = { s with regs := s.regs.setAcc a ⟨s.ph a + s.inc a, s.inc a⟩ } ∧
    (accAdvance a 0 s).1 = s.ph a

/-- R66 with its encoding: ADV answers the phase before the advance. -/
def Obligations.AdvAnswersOldPhase : Prop :=
  (∀ x y : Word, decode ⟨0x00000001, x, y⟩ = .ok (.adv .pa0) ∧ decode ⟨0x00000101, x, y⟩ = .ok (.adv .pa1)) ∧
  ∀ (a : AccSel) (s : State), exec (.adv a) s = .next { s with
    regs := s.regs.setAcc a ⟨s.ph a + s.inc a, s.inc a⟩, responses := s.responses ++ [s.ph a] }

/-- R67 with its encoding: ADVO answers the phase `k` samples on and advances by one increment; `k = 0` is ADV. -/
def Obligations.AdvoAnswersProbe : Prop :=
  (∀ x y : Word, decode ⟨0x00000002, x, y⟩ = .ok (.advo .pa0 x.toInt) ∧
    decode ⟨0x00000102, x, y⟩ = .ok (.advo .pa1 x.toInt)) ∧
  (∀ (a : AccSel) (k : Int) (s : State), exec (.advo a k) s = .next { s with
    regs := s.regs.setAcc a ⟨s.ph a + s.inc a, s.inc a⟩,
    responses := s.responses ++ [wrap32 ((s.ph a).toNat + k * (s.inc a).toNat)] }) ∧
  ∀ (a : AccSel) (s : State), exec (.advo a 0) s = exec (.adv a) s

/-- R68, R61 with the encoding: ISST answers whether the stored phase is below the increment, unsigned; 0 at increment
0; it writes no register. -/
def Obligations.IsstComparesPhaseWithIncrement : Prop :=
  (∀ x y : Word, decode ⟨0x00000003, x, y⟩ = .ok (.isst .pa0) ∧ decode ⟨0x00000103, x, y⟩ = .ok (.isst .pa1)) ∧
  (∀ (a : AccSel) (s : State), exec (.isst a) s = .next { s with
    responses := s.responses ++ [if (s.ph a).toNat < (s.inc a).toNat then 1 else 0] }) ∧
  ∀ (a : AccSel) (s : State), s.inc a = 0 →
    exec (.isst a) s = .next { s with responses := s.responses ++ [0] }

/-- R69, R70 with their encodings: INC and DEC move the stored phase by one increment, modulo 2^32, and answer 0. -/
def Obligations.IncAndDecMoveOneIncrement : Prop :=
  (∀ x y : Word, decode ⟨0x00000004, x, y⟩ = .ok (.inc .pa0) ∧ decode ⟨0x00000104, x, y⟩ = .ok (.inc .pa1) ∧
    decode ⟨0x00000005, x, y⟩ = .ok (.dec .pa0) ∧ decode ⟨0x00000105, x, y⟩ = .ok (.dec .pa1)) ∧
  ∀ (a : AccSel) (s : State),
    exec (.inc a) s = .next { s with
      regs := s.regs.setAcc a ⟨s.ph a + s.inc a, s.inc a⟩, responses := s.responses ++ [0] } ∧
    exec (.dec a) s = .next { s with
      regs := s.regs.setAcc a ⟨s.ph a - s.inc a, s.inc a⟩, responses := s.responses ++ [0] }

/-- R71, R73 with their encodings: GETPH and GETINC answer the register and write none. -/
def Obligations.AccumulatorGetters : Prop :=
  (∀ x y : Word, decode ⟨0x00000006, x, y⟩ = .ok (.getph .pa0) ∧ decode ⟨0x00000106, x, y⟩ = .ok (.getph .pa1) ∧
    decode ⟨0x00000008, x, y⟩ = .ok (.getinc .pa0) ∧ decode ⟨0x00000108, x, y⟩ = .ok (.getinc .pa1)) ∧
  ∀ (a : AccSel) (s : State),
    exec (.getph a) s = .next { s with responses := s.responses ++ [s.ph a] } ∧
    exec (.getinc a) s = .next { s with responses := s.responses ++ [s.inc a] }

/-- R72, R74 with their encodings: SETPH and SETINC write their one register, all 32 bits of any word, and answer 0. -/
def Obligations.AccumulatorSetters : Prop :=
  (∀ x y : Word, decode ⟨0x00000007, x, y⟩ = .ok (.setph .pa0 x) ∧ decode ⟨0x00000107, x, y⟩ = .ok (.setph .pa1 x) ∧
    decode ⟨0x00000009, x, y⟩ = .ok (.setinc .pa0 x) ∧ decode ⟨0x00000109, x, y⟩ = .ok (.setinc .pa1 x)) ∧
  ∀ (a : AccSel) (v : Word) (s : State),
    exec (.setph a v) s = .next { s with
      regs := s.regs.setAcc a ⟨v, s.inc a⟩, responses := s.responses ++ [0] } ∧
    exec (.setinc a v) s = .next { s with
      regs := s.regs.setAcc a ⟨s.ph a, v⟩, responses := s.responses ++ [0] }

/-- R19: writing one accumulator leaves the other and every other register. -/
def Obligations.AccumulatorsDoNotAlias : Prop :=
  ∀ (a b : AccSel) (x : Acc) (r : Regs),
    (r.setAcc a x).acc b = (if b = a then x else r.acc b) ∧ (r.setAcc a x).width = r.width ∧
    (r.setAcc a x).gain = r.gain ∧ (r.setAcc a x).ill = r.ill ∧ (r.setAcc a x).pv = r.pv

/-- R75 with its encoding: SETFREQ writes round(FREQ * 2^16 / SR) modulo 2^32; SR = 0 sets PV, keeps INC and answers 0. -/
def Obligations.SetfreqWritesIncrement : Prop :=
  (∀ x y : Word, decode ⟨0x0000000A, x, y⟩ = .ok (.setfreq .pa0 x y) ∧
    decode ⟨0x0000010A, x, y⟩ = .ok (.setfreq .pa1 x y)) ∧
  (∀ (a : AccSel) (freq sr : Word) (s : State), sr ≠ 0 → exec (.setfreq a freq sr) s = .next { s with
    regs := s.regs.setAcc a
      ⟨s.ph a, BitVec.ofNat 32 ((freq.toNat * 2 ^ 17 + sr.toNat) / (2 * sr.toNat))⟩,
    responses := s.responses ++ [0] }) ∧
  ∀ (a : AccSel) (freq : Word) (s : State), ∃ t, exec (.setfreq a freq 0) s = .next t ∧
    t.regs = { s.regs with pv := true } ∧ t.responses = s.responses ++ [0]

/-- R76 with its encoding: SETPER writes round(2^48 / PERIOD) modulo 2^32; PERIOD = 0 sets PV, keeps INC and answers 0. -/
def Obligations.SetperWritesIncrement : Prop :=
  (∀ x y : Word, decode ⟨0x0000000B, x, y⟩ = .ok (.setper .pa0 x) ∧
    decode ⟨0x0000010B, x, y⟩ = .ok (.setper .pa1 x)) ∧
  (∀ (a : AccSel) (period : Word) (s : State), period ≠ 0 → exec (.setper a period) s = .next { s with
    regs := s.regs.setAcc a ⟨s.ph a, BitVec.ofNat 32 ((2 ^ 49 + period.toNat) / (2 * period.toNat))⟩,
    responses := s.responses ++ [0] }) ∧
  ∀ (a : AccSel) (s : State), ∃ t, exec (.setper a 0) s = .next t ∧
    t.regs = { s.regs with pv := true } ∧ t.responses = s.responses ++ [0]

/-- R62, R63: both conversions round to nearest, ties upward: the integer `q` that is wrapped has
`q - 1/2 ≤ exact < q + 1/2`, written without fractions. -/
def Obligations.ConversionsRoundToNearest : Prop :=
  (∀ freq sr : Word, sr ≠ 0 → ∃ q : Nat, freqToInc freq sr = BitVec.ofNat 32 q ∧
    2 * q * sr.toNat ≤ 2 * (freq.toNat * 2 ^ 16) + sr.toNat ∧
    2 * (freq.toNat * 2 ^ 16) + sr.toNat < 2 * (q + 1) * sr.toNat) ∧
  (∀ period : Word, period ≠ 0 → ∃ q : Nat, periodToInc period = BitVec.ofNat 32 q ∧
    2 * q * period.toNat ≤ 2 * 2 ^ 48 + period.toNat ∧
    2 * 2 ^ 48 + period.toNat < 2 * (q + 1) * period.toNat)

/-- R64: frequency 0 gives increment 0, and an accumulator with increment 0 never moves, at any offset. -/
def Obligations.ZeroFrequencyIsSilent : Prop :=
  (∀ sr : Word, sr ≠ 0 → freqToInc 0 sr = 0) ∧
  (∀ (a : AccSel) (k : Int) (s : State), s.inc a = 0 → accAdvance a k s = (s.ph a, s)) ∧
  (∀ (a : AccSel) (sr : Word) (s : State), sr ≠ 0 →
    ∃ t, exec (.setfreq a 0 sr) s = .next t ∧ t.inc a = 0 ∧ t.regs.statusWord = s.regs.statusWord)

/-- R60: the first sample call after reset returns phase 0, and the first after `SETPH a, v` returns `v`. -/
def Obligations.FirstSampleReturnsSetPhase : Prop :=
  (∀ a : AccSel, (accAdvance a 0 State.reset).1 = 0) ∧
  ∀ (a : AccSel) (v : Word) (s : State), ∃ t u, exec (.setph a v) s = .next t ∧
    (accAdvance a 0 t).1 = v ∧ exec (.adv a) t = .next u ∧ u.responses = s.responses ++ [0, v]

/-- R77: `n` ADV answer p, p + d, ..., each wrapped, and leave p + n * d; for n = round(2^32 / d) that is within d / 2 of
a whole cycle. -/
def Obligations.WraparoundLaw : Prop :=
  ∀ (a : AccSel) (s : State) (n : Nat),
    (∃ t, issue n (.adv a) s = .next t ∧
      t.responses = s.responses ++ (List.range n).map (phaseAt a s) ∧ t.ph a = phaseAt a s n) ∧
    (s.inc a ≠ 0 → n = (2 ^ 33 + (s.inc a).toNat) / (2 * (s.inc a).toNat) →
      2 * |(n : Int) * ((s.inc a).toNat : Int) - 2 ^ 32| ≤ ((s.inc a).toNat : Int))

/-- R78: `ADVO a, k` with k ≥ 0 answers what the (k + 1)-th of k + 1 ADV answers; with k < 0, the phase held |k| advances
before at the same increment; the phase it stores is one increment on. -/
def Obligations.OffsetConsistency : Prop :=
  (∀ (a : AccSel) (k : Nat) (s : State), ∃ t u v, exec (.advo a k) s = .next t ∧ issue (k + 1) (.adv a) s = .next u ∧
    t.responses = s.responses ++ [v] ∧ u.responses.getLast? = some v ∧ t.ph a = s.ph a + s.inc a) ∧
  (∀ (a : AccSel) (k : Nat) (r s : State), issue k (.adv a) r = .next s → ∃ t, exec (.advo a (-(k : Int))) s = .next t ∧
    t.responses = s.responses ++ [r.ph a] ∧ t.ph a = s.ph a + s.inc a)

/-- R79: after any command but DEC that steps an accumulator with a nonzero increment, ISST answers 1 exactly if that
step wrapped past zero, and then the next sample call's phase is below the increment. -/
def Obligations.CycleStartDetection : Prop :=
  ∀ (i : Instr) (a : AccSel) (s : State),
    isSampleCall i = true → i ≠ .dec a → RegName.ph a ∈ instrWrites i → s.inc a ≠ 0 →
    ∃ t u, exec i s = .next t ∧ exec (.isst a) t = .next u ∧
      u.responses = t.responses ++ [if 2 ^ 32 ≤ (s.ph a).toNat + (s.inc a).toNat then 1 else 0] ∧
      (2 ^ 32 ≤ (s.ph a).toNat + (s.inc a).toNat → (accAdvance a 0 t).1.toNat < (s.inc a).toNat)

/-- R80: ADV, ADVO and INC write the same phase; DEC undoes INC and INC undoes DEC; k steps of INC reach the phase
`ADVO a, k` answers. -/
def Obligations.StepEquivalences : Prop :=
  (∀ (a : AccSel) (k : Int) (s : State), ∃ t u w, exec (.adv a) s = .next t ∧ exec (.advo a k) s = .next u ∧
    exec (.inc a) s = .next w ∧ t.regs = w.regs ∧ u.regs = w.regs) ∧
  (∀ (a : AccSel) (s : State), ∃ t u t' u', exec (.inc a) s = .next t ∧ exec (.dec a) t = .next u ∧
    exec (.dec a) s = .next t' ∧ exec (.inc a) t' = .next u' ∧ u.regs = s.regs ∧ u'.regs = s.regs) ∧
  (∀ (a : AccSel) (k : Nat) (s : State), ∃ t u, issue k (.inc a) s = .next t ∧ exec (.advo a k) s = .next u ∧
    u.responses = s.responses ++ [t.ph a])

/-! ### sine_rom_lookup -/

/-- 20_memory.md R32: the listed properties of the ROM image. -/
def Obligations.RomImageProperties : Prop :=
  (rom 0).toInt = 0 ∧ (rom 512).toInt = 0 ∧ (rom 256).toInt = 16384 ∧ (rom 768).toInt = -16384 ∧
  (∀ i : RomIndex, -16384 ≤ (rom i).toInt ∧ (rom i).toInt ≤ 16384) ∧
  (∀ i : Fin 1024, 1 ≤ i.val → (rom (BitVec.ofNat 10 i)).toInt = -(rom (BitVec.ofNat 10 (1024 - i))).toInt) ∧
  (∀ i : Fin 512, 1 ≤ i.val → rom (BitVec.ofNat 10 (512 - i)) = rom (BitVec.ofNat 10 i)) ∧
  (rom 128).toInt = 11585 ∧ (rom 1).toInt = 101 ∧ (rom 1023).toInt = -101

/-- 41_sine_rom_lookup.md R82: SINE_LU depends on the top ten bits alone, is not negative exactly below 0x80400000, and
has the four values the rule lists. -/
def Obligations.SineLookupSignsAndValues : Prop :=
  (∀ p q : Word, p.toNat / 2 ^ 22 = q.toNat / 2 ^ 22 → sineLu p = sineLu q) ∧
  (∀ p : Word, 0 ≤ (sineLu p).toInt ↔ p.toNat < 0x80400000) ∧
  (sineLu 0x00000000).toInt = 0 ∧ (sineLu 0x40000000).toInt = 16384 ∧
  (sineLu 0x80000000).toInt = 0 ∧ (sineLu 0xC0000000).toInt = -16384

/-- R83 with its encoding: SIN answers the ROM entry at the top ten bits of PA0's phase before the advance,
sign-extended, and advances PA0 by one increment. -/
def Obligations.SinAnswersRomEntry : Prop :=
  (∀ x y : Word, decode ⟨0x00000010, x, y⟩ = .ok .sin ∧ decode ⟨0x00000110, x, y⟩ = .illegal .selectNotAcc) ∧
  ∀ s : State, exec .sin s = .next { s with
    regs := { s.regs with pa0 := ⟨s.ph .pa0 + s.inc .pa0, s.inc .pa0⟩ },
    responses := s.responses ++ [(rom ((s.ph .pa0).extractLsb' 22 10)).signExtend 32] }

/-- R84: with 0 < d ≤ 511 * 2^22, among consecutive SIN the upward crossings are exactly the calls right after a wrap
(whose phase is below d), and successive ones are floor(2^32 / d) or one more samples apart. -/
def Obligations.UpwardCrossingsAreAtWraps : Prop :=
  ∀ (s : State) (n : Nat), 0 < (s.inc .pa0).toNat → (s.inc .pa0).toNat ≤ 511 * 2 ^ 22 →
    ∃ t rs, issue n .sin s = .next t ∧ t.responses = s.responses ++ rs ∧ rs.length = n ∧
      (∀ j, 0 < j → j < n → (((rs.getD (j - 1) 0).toInt < 0 ∧ 0 ≤ (rs.getD j 0).toInt) ↔
        (phaseAt .pa0 s j).toNat < (s.inc .pa0).toNat)) ∧
      (∀ i j, i < j → (phaseAt .pa0 s i).toNat < (s.inc .pa0).toNat →
        (phaseAt .pa0 s j).toNat < (s.inc .pa0).toNat →
        (∀ l, i < l → l < j → ¬ (phaseAt .pa0 s l).toNat < (s.inc .pa0).toNat) →
        j - i = 2 ^ 32 / (s.inc .pa0).toNat ∨ j - i = 2 ^ 32 / (s.inc .pa0).toNat + 1)

/-! ### pulse_comparator -/

/-- 42_pulse_comparator.md R86 to R89 with the encodings: PULSE and PULSEO answer +1.0 if the phase is above WIDTH,
unsigned and strict, else -1.0, and advance PA0 by one increment. -/
def Obligations.PulseComparesWithWidth : Prop :=
  (∀ x y : Word, decode ⟨0x00000012, x, y⟩ = .ok .pulse ∧ decode ⟨0x00000013, x, y⟩ = .ok (.pulseo x.toInt) ∧
    decode ⟨0x00000112, x, y⟩ = .illegal .selectNotAcc ∧ decode ⟨0x00000113, x, y⟩ = .illegal .selectNotAcc) ∧
  (∀ s : State, exec .pulse s = .next { s with
    regs := { s.regs with pa0 := ⟨s.ph .pa0 + s.inc .pa0, s.inc .pa0⟩ },
    responses := s.responses ++ [if s.regs.width < s.ph .pa0 then 0x00004000 else 0xFFFFC000] }) ∧
  (∀ (k : Int) (s : State), exec (.pulseo k) s = .next { s with
    regs := { s.regs with pa0 := ⟨s.ph .pa0 + s.inc .pa0, s.inc .pa0⟩ },
    responses := s.responses ++
      [if s.regs.width < s.ph .pa0 + wrap32 k * s.inc .pa0 then 0x00004000 else 0xFFFFC000] }) ∧
  ∀ s : State, exec (.pulseo 0) s = exec .pulse s

/-- R90, R91 with their encodings: GETW answers WIDTH, SETW writes it. -/
def Obligations.WidthIsReadAndWritten : Prop :=
  (∀ x y : Word, decode ⟨0x00000014, x, y⟩ = .ok .getw ∧ decode ⟨0x00000015, x, y⟩ = .ok (.setw x) ∧
    decode ⟨0x00000114, x, y⟩ = .illegal .selectNotAcc ∧ decode ⟨0x00000115, x, y⟩ = .illegal .selectNotAcc) ∧
  (∀ s : State, exec .getw s = .next { s with responses := s.responses ++ [s.regs.width] }) ∧
  ∀ (v : Word) (s : State), exec (.setw v) s = .next { s with
    regs := { s.regs with width := v }, responses := s.responses ++ [0] }

/-- R92: PULSE is +1.0 on 2^32 - 1 - WIDTH phases and -1.0 on WIDTH + 1. -/
def Obligations.PulseDuty : Prop :=
  ∀ width : Word,
    (Finset.univ.filter (fun p : Fin (2 ^ 32) => (pulseCmp width (BitVec.ofFin p)).toInt = 16384)).card =
      2 ^ 32 - 1 - width.toNat ∧
    (Finset.univ.filter (fun p : Fin (2 ^ 32) => (pulseCmp width (BitVec.ofFin p)).toInt = -16384)).card =
      width.toNat + 1

/-- R93: at WIDTH = 0x80000000 and 0 < d < 2^31, over one cycle of `n` PULSE from a phase below d to the last before the
next such call, the +1.0 and the -1.0 responses each number `n / 2` to within 1. -/
def Obligations.PulseSymmetry : Prop :=
  ∀ (s : State) (n : Nat), s.regs.width = 0x80000000 → 0 < (s.inc .pa0).toNat → (s.inc .pa0).toNat < 2 ^ 31 →
    0 < n → (s.ph .pa0).toNat < (s.inc .pa0).toNat → (phaseAt .pa0 s n).toNat < (s.inc .pa0).toNat →
    (∀ l, 0 < l → l < n → ¬ (phaseAt .pa0 s l).toNat < (s.inc .pa0).toNat) →
    ∃ t rs, issue n .pulse s = .next t ∧ t.responses = s.responses ++ rs ∧ rs.length = n ∧
      |2 * (rs.count 0x00004000 : Int) - n| ≤ 2 ∧ |2 * (rs.count 0xFFFFC000 : Int) - n| ≤ 2

/-! ### fm_modulator_engine -/

/-- 43_fm_modulator_engine.md R94: the perturbation is floor(m * G / 2^14) modulo 2^32; for a ROM amplitude the exact
product stays below 2^47. -/
def Obligations.PerturbationIsFlooredProduct : Prop :=
  ∀ (m : Amp) (gain : Word),
    ((fmPert m gain).toNat : Int) = ⌊((m.toInt * gain.toNat : Int) : ℚ) / 2 ^ 14⌋ % 2 ^ 32 ∧
    (|m.toInt| ≤ 16384 →
      |m.toInt * (gain.toNat : Int)| ≤ 2 ^ 14 * (2 ^ 32 - 1) ∧ |m.toInt * (gain.toNat : Int)| < 2 ^ 47)

/-- R97, R98, R95, R96 with the encodings: FM and FMO read both accumulators at offset k, look up the carrier's phase
plus the perturbation, and advance both by exactly one increment. -/
def Obligations.FmAnswersPerturbedCarrier : Prop :=
  (∀ x y : Word, decode ⟨0x00000018, x, y⟩ = .ok .fm ∧ decode ⟨0x00000019, x, y⟩ = .ok (.fmo x.toInt) ∧
    decode ⟨0x00000118, x, y⟩ = .illegal .selectNotAcc ∧ decode ⟨0x00000119, x, y⟩ = .illegal .selectNotAcc) ∧
  (∀ (k : Int) (s : State), exec (.fmo k) s = .next { s with
    regs := { s.regs with
      pa0 := ⟨s.ph .pa0 + s.inc .pa0, s.inc .pa0⟩, pa1 := ⟨s.ph .pa1 + s.inc .pa1, s.inc .pa1⟩ },
    responses := s.responses ++
      [(sineLu (s.ph .pa0 + wrap32 k * s.inc .pa0 +
        fmPert (sineLu (s.ph .pa1 + wrap32 k * s.inc .pa1)) s.regs.gain)).signExtend 32] }) ∧
  (∀ s : State, exec .fm s = .next { s with
    regs := { s.regs with
      pa0 := ⟨s.ph .pa0 + s.inc .pa0, s.inc .pa0⟩, pa1 := ⟨s.ph .pa1 + s.inc .pa1, s.inc .pa1⟩ },
    responses := s.responses ++
      [(sineLu (s.ph .pa0 + fmPert (sineLu (s.ph .pa1)) s.regs.gain)).signExtend 32] }) ∧
  ∀ s : State, exec (.fmo 0) s = exec .fm s

/-- R99, R100 with their encodings: GETG answers GAIN, SETG writes it. -/
def Obligations.GainIsReadAndWritten : Prop :=
  (∀ x y : Word, decode ⟨0x0000001A, x, y⟩ = .ok .getg ∧ decode ⟨0x0000001B, x, y⟩ = .ok (.setg x) ∧
    decode ⟨0x0000011A, x, y⟩ = .illegal .selectNotAcc ∧ decode ⟨0x0000011B, x, y⟩ = .illegal .selectNotAcc) ∧
  (∀ s : State, exec .getg s = .next { s with responses := s.responses ++ [s.regs.gain] }) ∧
  ∀ (v : Word) (s : State), exec (.setg v) s = .next { s with
    regs := { s.regs with gain := v }, responses := s.responses ++ [0] }

/-- R101: at GAIN = 0, `n` FM and `n` SIN from the same state are answered alike, word for word, and leave the same PA0;
FMO k is answered with the SINE_LU of PA0's probe at k. FM also advances PA1, SIN does not. -/
def Obligations.FmAtZeroGainIsSine : Prop :=
  (∀ m : Amp, fmPert m 0 = 0) ∧
  (∀ (s u : State) (n : Nat), s.regs.gain = 0 → u.regs.pa0 = s.regs.pa0 → u.responses = s.responses →
    ∃ t v, issue n .fm s = .next t ∧ issue n .sin u = .next v ∧
      t.responses = v.responses ∧ t.regs.pa0 = v.regs.pa0 ∧
      t.ph .pa1 = phaseAt .pa1 s n ∧ v.regs.pa1 = u.regs.pa1) ∧
  (∀ (k : Int) (s : State), s.regs.gain = 0 → ∃ t v, exec (.fmo k) s = .next t ∧ exec .sin s = .next v ∧
    t.responses = s.responses ++ [(sineLu (phaseAfter (s.ph .pa0) (s.inc .pa0) k)).signExtend 32] ∧
    t.regs.pa0 = v.regs.pa0)

/-- R102: evaluating the carrier's step before the modulator's gives the same amplitude and the same state. -/
def Obligations.FmOrderIsUnobservable : Prop :=
  ∀ (k : Int) (s : State),
    let rc := accAdvance .pa0 k s
    let rm := accAdvance .pa1 k rc.2
    fmEval k s = (sineLu (rc.1 + fmPert (sineLu rm.1) s.regs.gain), rm.2)

/-! ### Status and control, reset -/

/-- 44_status_and_control.md R103, R104, R105 with their encodings: NOP answers 0; GETST answers STATUS (ILL in bit 0,
PV in bit 1, bits 31:2 zero) and keeps it; CLRST clears both bits, changes no other register, and answers 0. -/
def Obligations.StatusAndControlCommands : Prop :=
  (∀ x y : Word, decode ⟨0x00000000, x, y⟩ = .ok .nop ∧ decode ⟨0x00000020, x, y⟩ = .ok .getst ∧
    decode ⟨0x00000021, x, y⟩ = .ok .clrst ∧ decode ⟨0x00000100, x, y⟩ = .illegal .selectNotAcc ∧
    decode ⟨0x00000120, x, y⟩ = .illegal .selectNotAcc ∧ decode ⟨0x00000121, x, y⟩ = .illegal .selectNotAcc) ∧
  (∀ s : State, exec .nop s = .next { s with responses := s.responses ++ [0] }) ∧
  (∀ s : State, exec .getst s = .next { s with
    responses := s.responses ++ [(0 : BitVec 30) ++ BitVec.ofBool s.regs.pv ++ BitVec.ofBool s.regs.ill] }) ∧
  ∀ s : State, exec .clrst s = .next { s with
    regs := { s.regs with ill := false, pv := false }, responses := s.responses ++ [0] }

/-- 70_reset_and_hazards.md R123: from the reset values, for ever, ADV and ISST and SIN and FM answer 0 and PULSE answers
-1.0. -/
def Obligations.ResetStateIsSilent : Prop :=
  ∀ (n : Nat) (a : AccSel),
    (∃ t, issue n (.adv a) State.reset = .next t ∧ t.responses = List.replicate n 0 ∧ t.regs = Regs.reset) ∧
    (∃ t, issue n (.isst a) State.reset = .next t ∧ t.responses = List.replicate n 0) ∧
    (∃ t, issue n .sin State.reset = .next t ∧ t.responses = List.replicate n 0) ∧
    (∃ t, issue n .pulse State.reset = .next t ∧ t.responses = List.replicate n 0xFFFFC000) ∧
    (∃ t, issue n .fm State.reset = .next t ∧ t.responses = List.replicate n 0)

/-! ### The host's side -/

/-- 30_encoding.md R56: what each pseudo-instruction does, through its expansion. -/
def Obligations.PseudoInstructionsMeanTheirNotes : Prop :=
  ∀ (a : AccSel) (s : State),
    exec (Pseudo.rstph a).expand s = exec (.setph a 0) s ∧
    exec (Pseudo.adv0 a).expand s = exec (.adv a) s ∧
    exec Pseudo.square.expand s = exec (.setw 0x80000000) s ∧
    (∀ (f : Nat) (sr : Word), f < 65536 → ∃ freq : Word, freq.toNat = f * 65536 ∧
      exec (Pseudo.sethz a f sr).expand s = exec (.setfreq a freq sr) s) ∧
    (∀ n : Nat, 1 ≤ n → n < 65536 → ∃ period : Word, period.toNat = n * 65536 ∧
      exec (Pseudo.setpern a n).expand s = exec (.setper a period) s) ∧
    (∀ num den : Nat, num < den → ∃ v : Word, v.toNat = num * 2 ^ 32 / den ∧
      exec (Pseudo.setwfrac num den).expand s = exec (.setw v) s)

/-! ### The port -/

/-- 70_reset_and_hazards.md R129: from an accepting edge, with `rst_n` held at 1, `cmd_ready` and `rsp_valid` are 0 in
every cycle before the LAT-th; in the LAT-th the command has been served whole and its response is presented. What LAT
counts, and when the registers change, is the model's reading (log 5). -/
def Obligations.PortAnswersAfterLatency : Prop :=
  ∀ (p : Port) (pins : PortIn) (rest : List PortIn), p.accepts pins = true →
    rest.length + 1 = Config.latency → (∀ x ∈ rest, x.rstN = true) →
    (∀ k, k < rest.length → (Port.run (rest.take k) (p.tick pins)).out.cmdReady = false ∧
      (Port.run (rest.take k) (p.tick pins)).out.rspValid = false) ∧
    ∃ t v, transact pins.word p.block = .next t ∧ t.responses = p.block.responses ++ [v] ∧
      (Port.run rest (p.tick pins)).block = t ∧ (Port.run rest (p.tick pins)).out.rspValid = true ∧
      (Port.run rest (p.tick pins)).out.rsp = v

/-- R129, the model's reading of it (DEDUCED and DESIGN CHOICE, log 5): with nothing in flight and no
response presented the port is ready; a response is presented for one cycle unless the next edge completes a new command; between commands the block holds
its state. -/
def Obligations.PortIdleHoldsState : Prop :=
  ∀ (p : Port) (pins : PortIn), p.flight = none → pins.rstN = true → p.accepts pins = false →
    (p.tick pins).block = p.block ∧ (p.tick pins).out.rspValid = false ∧ (p.tick pins).out.cmdReady = true

/-- R122: an edge with `rst_n` at 0 resets the registers, and a command in flight is lost: it is never answered. The index and the
record of errors stay (DESIGN CHOICE, log 4). -/
def Obligations.PortResetLosesFlight : Prop :=
  ∀ (p : Port) (pins : PortIn), pins.rstN = false →
    (p.tick pins).block = { p.block with regs := Regs.reset } ∧ (p.tick pins).flight = none ∧
    (p.tick pins).out.rspValid = false
end

