-- ==== Sys2Proof/Laws/State.lean ====
section
/-! SUPPORT. One lemma per field per update of State and of Regs, so that no later proof unfolds a record update. -/

namespace Sys2Proof.Machine

/-! ### Updates of State -/

@[simp] theorem State.setPh_regs (a : AccSel) (v : Word) (s : State) : (s.setPh a v).regs = s.regs.setAcc a { s.regs.acc a with ph := v } := rfl
@[simp] theorem State.setPh_pending (a : AccSel) (v : Word) (s : State) : (s.setPh a v).pending = s.pending := rfl
@[simp] theorem State.setPh_index (a : AccSel) (v : Word) (s : State) : (s.setPh a v).index = s.index := rfl
@[simp] theorem State.setPh_responses (a : AccSel) (v : Word) (s : State) : (s.setPh a v).responses = s.responses := rfl
@[simp] theorem State.setPh_faults (a : AccSel) (v : Word) (s : State) : (s.setPh a v).faults = s.faults := rfl

@[simp] theorem State.setInc_regs (a : AccSel) (v : Word) (s : State) : (s.setInc a v).regs = s.regs.setAcc a { s.regs.acc a with inc := v } := rfl
@[simp] theorem State.setInc_pending (a : AccSel) (v : Word) (s : State) : (s.setInc a v).pending = s.pending := rfl
@[simp] theorem State.setInc_index (a : AccSel) (v : Word) (s : State) : (s.setInc a v).index = s.index := rfl
@[simp] theorem State.setInc_responses (a : AccSel) (v : Word) (s : State) : (s.setInc a v).responses = s.responses := rfl
@[simp] theorem State.setInc_faults (a : AccSel) (v : Word) (s : State) : (s.setInc a v).faults = s.faults := rfl

@[simp] theorem State.setWidth_regs (v : Word) (s : State) : (s.setWidth v).regs = { s.regs with width := v } := rfl
@[simp] theorem State.setWidth_pending (v : Word) (s : State) : (s.setWidth v).pending = s.pending := rfl
@[simp] theorem State.setWidth_index (v : Word) (s : State) : (s.setWidth v).index = s.index := rfl
@[simp] theorem State.setWidth_responses (v : Word) (s : State) : (s.setWidth v).responses = s.responses := rfl
@[simp] theorem State.setWidth_faults (v : Word) (s : State) : (s.setWidth v).faults = s.faults := rfl

@[simp] theorem State.setGain_regs (v : Word) (s : State) : (s.setGain v).regs = { s.regs with gain := v } := rfl
@[simp] theorem State.setGain_pending (v : Word) (s : State) : (s.setGain v).pending = s.pending := rfl
@[simp] theorem State.setGain_index (v : Word) (s : State) : (s.setGain v).index = s.index := rfl
@[simp] theorem State.setGain_responses (v : Word) (s : State) : (s.setGain v).responses = s.responses := rfl
@[simp] theorem State.setGain_faults (v : Word) (s : State) : (s.setGain v).faults = s.faults := rfl

@[simp] theorem State.clearStatus_regs (s : State) : s.clearStatus.regs = s.regs.clearFlags := rfl
@[simp] theorem State.clearStatus_pending (s : State) : s.clearStatus.pending = s.pending := rfl
@[simp] theorem State.clearStatus_index (s : State) : s.clearStatus.index = s.index := rfl
@[simp] theorem State.clearStatus_responses (s : State) : s.clearStatus.responses = s.responses := rfl
@[simp] theorem State.clearStatus_faults (s : State) : s.clearStatus.faults = s.faults := rfl

@[simp] theorem State.respond_regs (v : Word) (s : State) : (s.respond v).regs = s.regs := rfl
@[simp] theorem State.respond_pending (v : Word) (s : State) : (s.respond v).pending = s.pending := rfl
@[simp] theorem State.respond_index (v : Word) (s : State) : (s.respond v).index = s.index := rfl
@[simp] theorem State.respond_responses (v : Word) (s : State) : (s.respond v).responses = s.responses ++ [v] := rfl
@[simp] theorem State.respond_faults (v : Word) (s : State) : (s.respond v).faults = s.faults := rfl

@[simp] theorem State.raise_regs (e : Fault) (s : State) : (s.raise e).regs = s.regs.setFlag e := rfl
@[simp] theorem State.raise_pending (e : Fault) (s : State) : (s.raise e).pending = s.pending := rfl
@[simp] theorem State.raise_index (e : Fault) (s : State) : (s.raise e).index = s.index := rfl
@[simp] theorem State.raise_responses (e : Fault) (s : State) : (s.raise e).responses = s.responses ++ [0] := rfl
@[simp] theorem State.raise_faults (e : Fault) (s : State) : (s.raise e).faults = s.faults ++ [⟨s.index, e⟩] := rfl

@[simp] theorem State.dropInput_regs (s : State) : s.dropInput.regs = s.regs := rfl
@[simp] theorem State.dropInput_pending (s : State) : s.dropInput.pending = s.pending.tail := rfl
@[simp] theorem State.dropInput_index (s : State) : s.dropInput.index = s.index := rfl
@[simp] theorem State.dropInput_responses (s : State) : s.dropInput.responses = s.responses := rfl
@[simp] theorem State.dropInput_faults (s : State) : s.dropInput.faults = s.faults := rfl

@[simp] theorem State.countCommand_regs (s : State) : s.countCommand.regs = s.regs := rfl
@[simp] theorem State.countCommand_pending (s : State) : s.countCommand.pending = s.pending := rfl
@[simp] theorem State.countCommand_index (s : State) : s.countCommand.index = s.index + 1 := rfl
@[simp] theorem State.countCommand_responses (s : State) : s.countCommand.responses = s.responses := rfl
@[simp] theorem State.countCommand_faults (s : State) : s.countCommand.faults = s.faults := rfl

@[simp] theorem State.resetRegs_regs (s : State) : s.resetRegs.regs = Regs.reset := rfl
@[simp] theorem State.resetRegs_pending (s : State) : s.resetRegs.pending = s.pending := rfl
@[simp] theorem State.resetRegs_index (s : State) : s.resetRegs.index = s.index := rfl
@[simp] theorem State.resetRegs_responses (s : State) : s.resetRegs.responses = s.responses := rfl
@[simp] theorem State.resetRegs_faults (s : State) : s.resetRegs.faults = s.faults := rfl

/-! ### Updates of Regs (R19: no aliasing) -/

@[simp] theorem Regs.acc_pa0 (r : Regs) : r.acc .pa0 = r.pa0 := rfl
@[simp] theorem Regs.setAcc_pa0 (x : Acc) (r : Regs) : r.setAcc .pa0 x = { r with pa0 := x } := rfl
@[simp] theorem Regs.acc_pa1 (r : Regs) : r.acc .pa1 = r.pa1 := rfl
@[simp] theorem Regs.setAcc_pa1 (x : Acc) (r : Regs) : r.setAcc .pa1 x = { r with pa1 := x } := rfl
@[simp] theorem Regs.setAcc_width (a : AccSel) (x : Acc) (r : Regs) : (r.setAcc a x).width = r.width := by cases a <;> rfl
@[simp] theorem Regs.setAcc_gain (a : AccSel) (x : Acc) (r : Regs) : (r.setAcc a x).gain = r.gain := by cases a <;> rfl
@[simp] theorem Regs.setAcc_ill (a : AccSel) (x : Acc) (r : Regs) : (r.setAcc a x).ill = r.ill := by cases a <;> rfl
@[simp] theorem Regs.setAcc_pv (a : AccSel) (x : Acc) (r : Regs) : (r.setAcc a x).pv = r.pv := by cases a <;> rfl
@[simp] theorem Regs.setAcc_self (a : AccSel) (r : Regs) : r.setAcc a (r.acc a) = r := by cases a <;> rfl
@[simp] theorem Regs.setAcc_setAcc (a : AccSel) (x y : Acc) (r : Regs) :
    (r.setAcc a x).setAcc a y = r.setAcc a y := by cases a <;> rfl
@[simp] theorem Regs.statusWord_setAcc (a : AccSel) (x : Acc) (r : Regs) :
    (r.setAcc a x).statusWord = r.statusWord := by cases a <;> rfl

@[simp] theorem Regs.setFlag_pa0 (e : Fault) (r : Regs) : (r.setFlag e).pa0 = r.pa0 := by cases e <;> rfl
@[simp] theorem Regs.setFlag_pa1 (e : Fault) (r : Regs) : (r.setFlag e).pa1 = r.pa1 := by cases e <;> rfl
@[simp] theorem Regs.setFlag_width (e : Fault) (r : Regs) : (r.setFlag e).width = r.width := by cases e <;> rfl
@[simp] theorem Regs.setFlag_gain (e : Fault) (r : Regs) : (r.setFlag e).gain = r.gain := by cases e <;> rfl
@[simp] theorem Regs.clearFlags_pa0 (r : Regs) : r.clearFlags.pa0 = r.pa0 := rfl
@[simp] theorem Regs.clearFlags_pa1 (r : Regs) : r.clearFlags.pa1 = r.pa1 := rfl
@[simp] theorem Regs.clearFlags_width (r : Regs) : r.clearFlags.width = r.width := rfl
@[simp] theorem Regs.clearFlags_gain (r : Regs) : r.clearFlags.gain = r.gain := rfl
@[simp] theorem Regs.setFlag_ill_ill (r : Regs) : (r.setFlag .ill).ill = true := rfl
@[simp] theorem Regs.setFlag_ill_pv (r : Regs) : (r.setFlag .ill).pv = r.pv := rfl
@[simp] theorem Regs.setFlag_pv_ill (r : Regs) : (r.setFlag .pv).ill = r.ill := rfl
@[simp] theorem Regs.setFlag_pv_pv (r : Regs) : (r.setFlag .pv).pv = true := rfl
@[simp] theorem Regs.clearFlags_ill (r : Regs) : r.clearFlags.ill = false := rfl
@[simp] theorem Regs.clearFlags_pv (r : Regs) : r.clearFlags.pv = false := rfl

/-! ### Reading an accumulator after an update -/

@[simp] theorem State.ph_setPh (a : AccSel) (v : Word) (s : State) : (s.setPh a v).ph a = v := by cases a <;> rfl
@[simp] theorem State.inc_setPh (a b : AccSel) (v : Word) (s : State) : (s.setPh a v).inc b = s.inc b := by
  cases a <;> cases b <;> rfl
@[simp] theorem State.inc_setInc (a : AccSel) (v : Word) (s : State) : (s.setInc a v).inc a = v := by cases a <;> rfl
@[simp] theorem State.ph_setInc (a b : AccSel) (v : Word) (s : State) : (s.setInc a v).ph b = s.ph b := by
  cases a <;> cases b <;> rfl
@[simp] theorem State.ph_pa0_setPh_pa1 (v : Word) (s : State) : (s.setPh .pa1 v).ph .pa0 = s.ph .pa0 := rfl
@[simp] theorem State.ph_pa1_setPh_pa0 (v : Word) (s : State) : (s.setPh .pa0 v).ph .pa1 = s.ph .pa1 := rfl
@[simp] theorem State.ph_respond (a : AccSel) (v : Word) (s : State) : (s.respond v).ph a = s.ph a := rfl
@[simp] theorem State.inc_respond (a : AccSel) (v : Word) (s : State) : (s.respond v).inc a = s.inc a := rfl

end Sys2Proof.Machine
end

