-- ==== Sys2Proof/Laws/Ops.lean ====
section
/-! SUPPORT. One lemma per shared operation that says what it gives: wrapping (00_scope.md R9), the response words
(30_encoding.md R50), the accumulator's step (40_phase_accumulator.md R57, R58), and the answer of `onNext`. -/

namespace Sys2Proof.Machine

/-! ### Wrapping -/

/-- A natural number wraps to its bit vector. -/
theorem wrap32_natCast (n : Nat) : wrap32 (n : Int) = BitVec.ofNat 32 n := BitVec.ofInt_natCast 32 n

/-- Wrapping respects sums. -/
theorem wrap32_add (x y : Int) : wrap32 (x + y) = wrap32 x + wrap32 y := BitVec.ofInt_add x y

/-- Wrapping respects products. -/
theorem wrap32_mul (x y : Int) : wrap32 (x * y) = wrap32 x * wrap32 y := BitVec.ofInt_mul x y

/-- Wrapping a word's own value gives the word. -/
@[simp] theorem wrap32_toNat (v : Word) : wrap32 (v.toNat : Int) = v := by simp [wrap32_natCast]

/-- Wrapping a sum of two words is the words' own sum. -/
@[simp] theorem wrap32_toNat_add (v w : Word) : wrap32 ((v.toNat : Int) + w.toNat) = v + w := by
  rw [wrap32_add, wrap32_toNat, wrap32_toNat]

/-- Wrapping a difference of two words is the words' own difference. -/
@[simp] theorem wrap32_toNat_sub (v w : Word) : wrap32 ((v.toNat : Int) - w.toNat) = v - w := by
  rw [sub_eq_add_neg, wrap32_add, wrap32_toNat, wrap32, BitVec.ofInt_neg, BitVec.sub_eq_add_neg]
  simp

/-! ### Response words -/

/-- An amplitude's response word is its sign extension. -/
theorem ampWord_eq_signExtend (a : Amp) : ampWord a = a.signExtend 32 := rfl

/-! ### The accumulator's step -/

/-- The probe at offset 0 is the phase itself. -/
@[simp] theorem phaseAfter_zero (p d : Word) : phaseAfter p d 0 = p := by simp [phaseAfter]

/-- The probe at any offset from increment 0 is the phase itself. -/
@[simp] theorem phaseAfter_inc_zero (p : Word) (k : Int) : phaseAfter p 0 k = p := by simp [phaseAfter]

/-- What the accumulator's step returns: the probe at the offset. -/
@[simp] theorem accAdvance_fst (a : AccSel) (k : Int) (s : State) :
    (accAdvance a k s).1 = phaseAfter (s.ph a) (s.inc a) k := rfl

/-- What the accumulator's step writes: one increment, whatever the offset. -/
@[simp] theorem accAdvance_snd (a : AccSel) (k : Int) (s : State) :
    (accAdvance a k s).2 = s.setPh a (s.ph a + s.inc a) := by simp [accAdvance]

/-! ### `onNext` -/

@[simp] theorem onNext_next (f : State → State) (s : State) : onNext f (.next s) = .next (f s) := rfl

/-- `onNext` answers a next state only where its argument does. -/
theorem onNext_eq_next {f : State → State} {r : Result} {t : State} (h : onNext f r = .next t) :
    ∃ u, r = .next u ∧ t = f u := by
  cases r with
  | next u => exact ⟨u, rfl, by simpa [onNext] using h.symm⟩
  | fault r => simp [onNext] at h
  | refused r => simp [onNext] at h

end Sys2Proof.Machine
end

