-- ==== Sys2Proof/Laws/Boot.lean ====
section
/-! SUPPORT. The frequency operand of the constructions (70_reset_and_hazards.md R125): exact wherever it is a word. -/

namespace Sys2Proof.Machine

/-- A frequency whose `f * 65536` is a whole number has a denominator that divides 65536. -/
theorem den_dvd_of_mul_eq {f : Rat} {n : Nat} (h : f.num * 65536 = (n : Int) * f.den) : f.den ∣ 65536 := by
  have hd : f.den ∣ f.num.natAbs * 65536 := ⟨n, by simpa [Int.natAbs_mul, Nat.mul_comm] using congrArg Int.natAbs h⟩
  exact f.reduced.symm.dvd_of_dvd_mul_left hd

/-- R125: a frequency whose `f * 65536` is a word is sent as that word. -/
theorem frequencyWord_exact (f : Rat) (w : Word) (h : f * 65536 = (w.toNat : Rat)) : frequencyWord f = w := by
  have hd : (f.den : Int) ≠ 0 := by exact_mod_cast f.den_nz
  have hi : f.num * 65536 = (w.toNat : Int) * f.den := by
    have hr : (f.den : Rat) ≠ 0 := by exact_mod_cast f.den_nz
    rw [← Rat.num_div_den f] at h
    field_simp at h
    exact_mod_cast h.trans (mul_comm _ _)
  obtain ⟨c, hc⟩ := den_dvd_of_mul_eq hi
  have hq : 65536 / f.den = c := by rw [hc]; exact Nat.mul_div_cancel_left c f.den_pos
  have hx : f.num * (c : Int) = w.toNat := by
    apply mul_right_cancel₀ hd
    rw [← hi, show (65536 : Int) = f.den * c by exact_mod_cast hc]
    ring
  have h0 : 0 ≤ f.num := by
    have : 0 ≤ (w.toNat : Int) * f.den := by positivity
    omega
  have hw : (w.toNat : Int) < 2 ^ 32 := by exact_mod_cast w.isLt
  rw [frequencyWord, if_pos ⟨⟨c, hc⟩, h0, by rwa [hq, hx]⟩, hq, hx, ← wrap32, wrap32_toNat]

/-- Below 65536 Hz a whole number of hertz is sent as R56's SETHZ sends it. -/
theorem frequencyWord_natCast (n : Nat) (h : n < 65536) : frequencyWord n = uq16 n := by
  apply frequencyWord_exact
  rw [uq16, wrap32_natCast, BitVec.toNat_ofNat, Nat.mod_eq_of_lt (by omega)]
  push_cast
  ring

end Sys2Proof.Machine
end

