-- ==== Sys2Proof/Laws/PerInstr.lean ====
section
/-! SUPPORT. Statements made per command, about its syntax: the family `EncodingShape` says of a command's encoding what
30_encoding.md R47, R48 and R49 ask of a legal transaction. -/

namespace Sys2Proof.Laws.EncodingShape

open Sys2Proof

/-- The three conditions of R47 hold of a command's encoding, its opcode is its own, its accumulator operand stands in
the field A, and a second operand word is used by SETFREQ alone (R49). -/
def Statement (i : Instr) : Prop :=
  cmdHigh (encode i).cmd = 0 ∧ cmdOp (encode i).cmd = i.op.code ∧
  cmdA (encode i).cmd = i.select.toBit ∧ (i.op.cls ≠ .acc → cmdA (encode i).cmd = false) ∧
  (i.op ≠ .setfreq → (encode i).opb = 0)

/-- The three fields of a command word are what it was made from. -/
theorem cmdWord_fields (o : Op) (a : Bool) :
    cmdHigh (cmdWord o a) = 0 ∧ cmdOp (cmdWord o a) = o.code ∧ cmdA (cmdWord o a) = a := by
  cases o <;> cases a <;> decide

/-- A command of class "acc" meets the family's statement. -/
theorem statement_of_acc {i : Instr} (hc : i.op.cls = .acc) (hb : i.op ≠ .setfreq → i.opb = 0) : Statement i :=
  ⟨(cmdWord_fields _ _).1, (cmdWord_fields _ _).2.1, (cmdWord_fields _ _).2.2, fun h => absurd hc h, hb⟩

/-- A command of another class, whose select bit is 0, meets the family's statement. -/
theorem statement_of_other {i : Instr} (hs : i.select = .pa0) (hb : i.opb = 0) : Statement i :=
  ⟨(cmdWord_fields _ _).1, (cmdWord_fields _ _).2.1, (cmdWord_fields _ _).2.2,
    fun _ => by rw [encode, (cmdWord_fields _ _).2.2, hs]; rfl, fun _ => hb⟩

theorem nop : Statement .nop := statement_of_other rfl rfl
theorem adv (a : AccSel) : Statement (.adv a) := statement_of_acc rfl fun _ => rfl
theorem advo (a : AccSel) (k : Int) : Statement (.advo a k) := statement_of_acc rfl fun _ => rfl
theorem isst (a : AccSel) : Statement (.isst a) := statement_of_acc rfl fun _ => rfl
theorem inc (a : AccSel) : Statement (.inc a) := statement_of_acc rfl fun _ => rfl
theorem dec (a : AccSel) : Statement (.dec a) := statement_of_acc rfl fun _ => rfl
theorem getph (a : AccSel) : Statement (.getph a) := statement_of_acc rfl fun _ => rfl
theorem setph (a : AccSel) (v : Word) : Statement (.setph a v) := statement_of_acc rfl fun _ => rfl
theorem getinc (a : AccSel) : Statement (.getinc a) := statement_of_acc rfl fun _ => rfl
theorem setinc (a : AccSel) (v : Word) : Statement (.setinc a v) := statement_of_acc rfl fun _ => rfl
theorem setfreq (a : AccSel) (freq sr : Word) : Statement (.setfreq a freq sr) :=
  statement_of_acc rfl fun h => absurd rfl h
theorem setper (a : AccSel) (period : Word) : Statement (.setper a period) := statement_of_acc rfl fun _ => rfl
theorem sin : Statement .sin := statement_of_other rfl rfl
theorem pulse : Statement .pulse := statement_of_other rfl rfl
theorem pulseo (k : Int) : Statement (.pulseo k) := statement_of_other rfl rfl
theorem getw : Statement .getw := statement_of_other rfl rfl
theorem setw (v : Word) : Statement (.setw v) := statement_of_other rfl rfl
theorem fm : Statement .fm := statement_of_other rfl rfl
theorem fmo (k : Int) : Statement (.fmo k) := statement_of_other rfl rfl
theorem getg : Statement .getg := statement_of_other rfl rfl
theorem setg (v : Word) : Statement (.setg v) := statement_of_other rfl rfl
theorem getst : Statement .getst := statement_of_other rfl rfl
theorem clrst : Statement .clrst := statement_of_other rfl rfl

end Sys2Proof.Laws.EncodingShape
end

