-- ==== Sys2Proof/Laws/Decode.lean ====
section
/-! SUPPORT. What the decoder says of a command word made from an operation and a select bit (30_encoding.md R48, R54),
whatever the operand words. -/

namespace Sys2Proof

/-- The opcode map is read back from its own code. -/
theorem Op.ofCode_code (o : Op) : Op.ofCode o.code = some o := by cases o <;> decide

/-- What the opcode lookup finds has the code it was asked for. -/
theorem Op.code_of_ofCode {b : BitVec 8} {o : Op} (h : Op.ofCode b = some o) : o.code = b := by
  simpa using List.find?_some h

/-- A legal select bit: the word decodes to the operation with its operand words. -/
theorem decode_cmdWord_ok {w : Word} {o : Op} {b : Bool} (x y : Word) (hw : w = cmdWord o b)
    (hb : o.cls = .acc ∨ b = false) : decode ⟨w, x, y⟩ = .ok (assemble o (AccSel.ofBit b) x y) := by
  obtain ⟨h1, h2, h3⟩ := Laws.EncodingShape.cmdWord_fields o b
  have hs : ¬ (o.cls ≠ .acc ∧ b = true) := by
    rcases hb with hb | hb <;> simp [hb]
  unfold decode
  simp only [hw, h1, h2, h3, Op.ofCode_code, ne_eq, not_true, if_false]
  exact if_neg hs

/-- A select bit on a command that takes none: the word is illegal. -/
theorem decode_cmdWord_select {w : Word} {o : Op} (x y : Word) (hw : w = cmdWord o true) (hc : o.cls ≠ .acc) :
    decode ⟨w, x, y⟩ = .illegal .selectNotAcc := by
  obtain ⟨h1, h2, h3⟩ := Laws.EncodingShape.cmdWord_fields o true
  unfold decode
  simp only [hw, h1, h2, h3, Op.ofCode_code, ne_eq, not_true, if_false]
  simp [hc]

end Sys2Proof
end

