-- ==== Sys2Proof/Laws/Exec.lean ====
section
/-! SUPPORT. What every command's meaning leaves, said once: `exec` answers a next state, appends one response and touches
neither the host's list nor the index; then the one inversion lemma of `transact` and of `step`. -/

namespace Sys2Proof.Machine

/-- What any command leaves: the host's list and the index, and every earlier response with one more after them. -/
structure Served (s t : State) : Prop where
  pending : t.pending = s.pending
  index : t.index = s.index
  responses : ∃ v, t.responses = s.responses ++ [v]

theorem served_respond {s t : State} (v : Word) (hp : t.pending = s.pending) (hi : t.index = s.index)
    (hr : t.responses = s.responses) : Served s (t.respond v) :=
  ⟨hp, hi, v, by rw [State.respond_responses, hr]⟩

theorem served_raise (e : Fault) (s : State) : Served s (s.raise e) := ⟨rfl, rfl, 0, rfl⟩

theorem served_accAdvance (a : AccSel) (k : Int) (v : Word) (s : State) :
    Served s ((accAdvance a k s).2.respond v) := served_respond v rfl rfl rfl

/-- Every command's meaning answers a next state, and serves the command. -/
theorem exec_served (i : Instr) (s : State) : ∃ t, exec i s = .next t ∧ Served s t := by
  cases i with
  | nop => exact ⟨_, rfl, served_respond _ rfl rfl rfl⟩
  | adv a => exact ⟨_, rfl, served_accAdvance ..⟩
  | advo a k => exact ⟨_, rfl, served_accAdvance ..⟩
  | isst a => exact ⟨_, rfl, served_respond _ rfl rfl rfl⟩
  | inc a => exact ⟨_, rfl, served_respond _ rfl rfl rfl⟩
  | dec a => exact ⟨_, rfl, served_respond _ rfl rfl rfl⟩
  | getph a => exact ⟨_, rfl, served_respond _ rfl rfl rfl⟩
  | setph a v => exact ⟨_, rfl, served_respond _ rfl rfl rfl⟩
  | getinc a => exact ⟨_, rfl, served_respond _ rfl rfl rfl⟩
  | setinc a v => exact ⟨_, rfl, served_respond _ rfl rfl rfl⟩
  | setfreq a freq sr =>
    by_cases h : sr = 0
    · exact ⟨_, if_pos h, served_raise ..⟩
    · exact ⟨_, if_neg h, served_respond _ rfl rfl rfl⟩
  | setper a period =>
    by_cases h : period = 0
    · exact ⟨_, if_pos h, served_raise ..⟩
    · exact ⟨_, if_neg h, served_respond _ rfl rfl rfl⟩
  | sin => exact ⟨_, rfl, served_accAdvance ..⟩
  | pulse => exact ⟨_, rfl, served_accAdvance ..⟩
  | pulseo k => exact ⟨_, rfl, served_accAdvance ..⟩
  | getw => exact ⟨_, rfl, served_respond _ rfl rfl rfl⟩
  | setw v => exact ⟨_, rfl, served_respond _ rfl rfl rfl⟩
  | fm => exact ⟨_, rfl, served_respond _ rfl rfl rfl⟩
  | fmo k => exact ⟨_, rfl, served_respond _ rfl rfl rfl⟩
  | getg => exact ⟨_, rfl, served_respond _ rfl rfl rfl⟩
  | setg v => exact ⟨_, rfl, served_respond _ rfl rfl rfl⟩
  | getst => exact ⟨_, rfl, served_respond _ rfl rfl rfl⟩
  | clrst => exact ⟨_, rfl, served_respond _ rfl rfl rfl⟩

/-- The same, from an answer that is given. -/
theorem served_of_exec {i : Instr} {s t : State} (h : exec i s = .next t) : Served s t := by
  obtain ⟨u, hu, hs⟩ := exec_served i s
  cases hu.symm.trans h
  exact hs

/-- What a transaction does: the decoded command and then the index, or ILL and then the index. -/
theorem transact_cases {c : Command} {s t : State} (h : transact c s = .next t) :
    (∃ i u, decode c = .ok i ∧ exec i s = .next u ∧ t = u.countCommand) ∨
    (∃ why, decode c = .illegal why ∧ t = (s.raise .ill).countCommand) := by
  unfold transact at h
  split at h
  · rename_i i hd
    obtain ⟨u, hu, rfl⟩ := onNext_eq_next h
    exact .inl ⟨i, u, hd, hu, rfl⟩
  · rename_i why hd
    obtain ⟨u, hu, rfl⟩ := onNext_eq_next h
    cases hu
    exact .inr ⟨why, hd, rfl⟩

/-- What a step does: nothing sent, a reset pulse, or one transaction. -/
theorem step_cases {s t : State} (h : step s = .next t) :
    (s.pending = [] ∧ t = s) ∨
    (∃ rest, s.pending = .reset :: rest ∧ t = s.resetRegs.dropInput) ∨
    (∃ c rest u, s.pending = .command c :: rest ∧ transact c s = .next u ∧ t = u.dropInput) := by
  unfold step at h
  split at h
  · rename_i hp
    cases h
    exact .inl ⟨hp, rfl⟩
  · rename_i rest hp
    cases h
    exact .inr (.inl ⟨rest, hp, rfl⟩)
  · rename_i c rest hp
    obtain ⟨u, hu, rfl⟩ := onNext_eq_next h
    exact .inr (.inr ⟨c, rest, u, hp, hu, rfl⟩)

end Sys2Proof.Machine
end

