-- ==== Sys2Proof/Laws/Issue.lean ====
section
/-! SUPPORT. A run of one command, issued `n` times, is the `n`-th iterate of what the command does to the state; so a law
over `n` samples is an induction over iterates and never unfolds the run. -/

namespace Sys2Proof.Machine

/-- One more step of a run, from a step that answers a next state. -/
theorem run_succ_of_step {M : Host.Core} {s t : M.State} (n : Nat) (h : M.step s = .next t) :
    M.run (n + 1) s = M.run n t := by
  simp only [Host.Core.run, h]

/-- A step on a command that decodes. -/
theorem step_of_exec {s t : State} {c : Command} {i : Instr} {rest : List HostInput}
    (hp : s.pending = .command c :: rest) (hd : decode c = .ok i) (ht : exec i s = .next t) :
    step s = .next t.countCommand.dropInput := by
  simp [step, hp, transact, hd, ht]

/-- What issuing a command once does around its effect `f`. -/
def issued (f : State → State) (s : State) : State := (f s).countCommand.dropInput

/-- Issuing a command `n` times iterates its effect, the index and the list moving on each time. -/
theorem issue_eq_iterate {i : Instr} {f : State → State} (hd : decode (encode i) = .ok i)
    (hf : ∀ s, exec i s = .next (f s)) (n : Nat) (s : State) :
    issue n i s = .next ((issued f)^[n] { s with pending := List.replicate n (.command (encode i)) }) := by
  have key : ∀ (n : Nat) (u : State), u.pending = List.replicate n (.command (encode i)) →
      Host.Core.run Sys2Proof.core n u = .next ((issued f)^[n] u) := by
    intro n
    induction n with
    | zero => intro u _; rfl
    | succ n ih =>
      intro u hu
      refine (run_succ_of_step (M := Sys2Proof.core) n
        (step_of_exec (hu.trans List.replicate_succ) hd (hf u))).trans ?_
      rw [Function.iterate_succ_apply]
      exact ih _ (by simp [(served_of_exec (hf u)).pending, hu, List.replicate_succ])
  exact key n _ rfl

end Sys2Proof.Machine
end

