-- ==== Sys2Proof/Tests/Slice0.lean ====
section
/-! SUPPORT. The author's own tests. Every expected value is the spec's: a command word of 30_encoding.md R51, a vector of
95_test_vectors.md (named in each comment), or a worked value of the rule cited. After them, for each obligation with
hypotheses, a concrete case that meets them together (and one for each clause, at a boundary of its range). -/

namespace Sys2Proof.Tests

open Sys2Proof Sys2Proof.Machine

/-! ### WellFormed refuses an offset outside `s32` (00_scope.md R9) -/

theorem test_wf_refuses_advo_too_big : ¬ WellFormed (.advo .pa0 2147483648) := by decide
theorem test_wf_refuses_pulseo_too_small : ¬ WellFormed (.pulseo (-2147483649)) := by decide
theorem test_wf_refuses_fmo_too_big : ¬ WellFormed (.fmo 4294967296) := by decide
theorem test_wf_takes_least_offset : WellFormed (.advo .pa1 (-2147483648)) := by decide

/-! ### Decoding: one word for each row of R51, written out as the rule's layout has it -/

theorem test_decode_nop : decode ⟨0x00000000, 0xFFFFFFFF, 7⟩ = .ok (.nop) := by decide
theorem test_decode_adv : decode ⟨0x00000101, 0xFFFFFFFF, 7⟩ = .ok (.adv .pa1) := by decide
theorem test_decode_advo : decode ⟨0x00000002, 0xFFFFFFFF, 7⟩ = .ok (.advo .pa0 (-1)) := by decide
theorem test_decode_isst : decode ⟨0x00000103, 0xFFFFFFFF, 7⟩ = .ok (.isst .pa1) := by decide
theorem test_decode_inc : decode ⟨0x00000004, 0xFFFFFFFF, 7⟩ = .ok (.inc .pa0) := by decide
theorem test_decode_dec : decode ⟨0x00000105, 0xFFFFFFFF, 7⟩ = .ok (.dec .pa1) := by decide
theorem test_decode_getph : decode ⟨0x00000006, 0xFFFFFFFF, 7⟩ = .ok (.getph .pa0) := by decide
theorem test_decode_setph : decode ⟨0x00000107, 0xFFFFFFFF, 7⟩ = .ok (.setph .pa1 0xFFFFFFFF) := by decide
theorem test_decode_getinc : decode ⟨0x00000008, 0xFFFFFFFF, 7⟩ = .ok (.getinc .pa0) := by decide
theorem test_decode_setinc : decode ⟨0x00000109, 0xFFFFFFFF, 7⟩ = .ok (.setinc .pa1 0xFFFFFFFF) := by decide
theorem test_decode_setfreq : decode ⟨0x0000000A, 0xFFFFFFFF, 7⟩ = .ok (.setfreq .pa0 0xFFFFFFFF 7) := by decide
theorem test_decode_setper : decode ⟨0x0000010B, 0xFFFFFFFF, 7⟩ = .ok (.setper .pa1 0xFFFFFFFF) := by decide
theorem test_decode_sin : decode ⟨0x00000010, 0xFFFFFFFF, 7⟩ = .ok (.sin) := by decide
theorem test_decode_pulse : decode ⟨0x00000012, 0xFFFFFFFF, 7⟩ = .ok (.pulse) := by decide
theorem test_decode_pulseo : decode ⟨0x00000013, 0xFFFFFFFF, 7⟩ = .ok (.pulseo (-1)) := by decide
theorem test_decode_getw : decode ⟨0x00000014, 0xFFFFFFFF, 7⟩ = .ok (.getw) := by decide
theorem test_decode_setw : decode ⟨0x00000015, 0xFFFFFFFF, 7⟩ = .ok (.setw 0xFFFFFFFF) := by decide
theorem test_decode_fm : decode ⟨0x00000018, 0xFFFFFFFF, 7⟩ = .ok (.fm) := by decide
theorem test_decode_fmo : decode ⟨0x00000019, 0xFFFFFFFF, 7⟩ = .ok (.fmo (-1)) := by decide
theorem test_decode_getg : decode ⟨0x0000001A, 0xFFFFFFFF, 7⟩ = .ok (.getg) := by decide
theorem test_decode_setg : decode ⟨0x0000001B, 0xFFFFFFFF, 7⟩ = .ok (.setg 0xFFFFFFFF) := by decide
theorem test_decode_getst : decode ⟨0x00000020, 0xFFFFFFFF, 7⟩ = .ok (.getst) := by decide
theorem test_decode_clrst : decode ⟨0x00000021, 0xFFFFFFFF, 7⟩ = .ok (.clrst) := by decide

/-- The field layout of R48 bit by bit, for `ADVO a1`: 23 zero bits, A, then OP. -/
theorem test_decode_advo_bits :
    decode ⟨0b00000000000000000000000_1_00000010, 0x80000000, 0⟩ = .ok (.advo .pa1 (-2147483648)) := by decide

/-- 0x11, a sine-offset form, is reserved and illegal (R52). -/
theorem test_decode_refuses_sine_offset : decode ⟨0x00000011, 0, 0⟩ = .illegal .noOpcode := by decide
/-- SIN with A = 1 is illegal (R52). -/
theorem test_decode_refuses_select : decode ⟨0x00000110, 0, 0⟩ = .illegal .selectNotAcc := by decide
/-- Bit 31 must be 0 (R47). -/
theorem test_decode_refuses_bit31 : decode ⟨0x80000001, 0, 0⟩ = .illegal .highBits := by decide
/-- The table's bits count on into the operand words. -/
theorem test_decode_table_word : decodeTableWord 32 0x10000010A = some (.setfreq .pa1 0 0) := by decide
/-- The 96 bits of a whole transaction. -/
theorem test_decode_table_words :
    decodeTableWord 96 0x0000AC44_01B80000_0000000A = some (.setfreq .pa0 0x01B80000 44100) := by decide

/-! ### Vectors of 95_test_vectors.md, section 2, each one transaction from the state its row gives -/

/-- The response to a transaction and the registers after it, from given registers. -/
def serve (c : Command) (r : Regs) : Option (Word × Regs) :=
  match transact c { State.reset with regs := r } with
  | .next t => t.responses.getLast?.map (fun v => (v, t.regs))
  | .fault _ => none
  | .refused _ => none

/-- Vector A1. -/
theorem test_adv_wraps : serve ⟨0x00000001, 0x00000000, 0x00000000⟩ ⟨⟨0xFFFFFFF0, 0x20⟩, ⟨0, 0⟩, 0x80000000, 0, false, false⟩ =
    some (0xFFFFFFF0, ⟨⟨0x00000010, 0x20⟩, ⟨0, 0⟩, 0x80000000, 0, false, false⟩) := by decide
/-- Vector A3. -/
theorem test_adv_selects_pa1 : serve ⟨0x00000101, 0x00000000, 0x00000000⟩ ⟨⟨0, 0⟩, ⟨0x1, 0x2⟩, 0x80000000, 0, false, false⟩ =
    some (0x00000001, ⟨⟨0, 0⟩, ⟨0x00000003, 0x2⟩, 0x80000000, 0, false, false⟩) := by decide
/-- Vector A7. -/
theorem test_advo_negative : serve ⟨0x00000102, 0xFFFFFFFD, 0x00000000⟩ ⟨⟨0, 0⟩, ⟨0x10000000, 0x1000000⟩, 0x80000000, 0, false, false⟩ =
    some (0x0D000000, ⟨⟨0, 0⟩, ⟨0x11000000, 0x1000000⟩, 0x80000000, 0, false, false⟩) := by decide
/-- Vector A9. -/
theorem test_advo_greatest_offset : serve ⟨0x00000002, 0x7FFFFFFF, 0x00000000⟩ ⟨⟨0, 0x2⟩, ⟨0, 0⟩, 0x80000000, 0, false, false⟩ =
    some (0xFFFFFFFE, ⟨⟨0x00000002, 0x2⟩, ⟨0, 0⟩, 0x80000000, 0, false, false⟩) := by decide
/-- Vector A14. -/
theorem test_isst_zero_increment : serve ⟨0x00000003, 0x00000000, 0x00000000⟩ ⟨⟨0, 0⟩, ⟨0, 0⟩, 0x80000000, 0, false, false⟩ =
    some (0x00000000, ⟨⟨0, 0⟩, ⟨0, 0⟩, 0x80000000, 0, false, false⟩) := by decide
/-- Vector A17. -/
theorem test_isst_unsigned : serve ⟨0x00000003, 0x00000000, 0x00000000⟩ ⟨⟨0xFFFFFFFE, 0xFFFFFFFF⟩, ⟨0, 0⟩, 0x80000000, 0, false, false⟩ =
    some (0x00000001, ⟨⟨0xFFFFFFFE, 0xFFFFFFFF⟩, ⟨0, 0⟩, 0x80000000, 0, false, false⟩) := by decide
/-- Vector A18. -/
theorem test_inc_wraps_ignores_operands : serve ⟨0x00000004, 0xDEADBEEF, 0x12345678⟩ ⟨⟨0xF0000000, 0x20000000⟩, ⟨0, 0⟩, 0x80000000, 0, false, false⟩ =
    some (0x00000000, ⟨⟨0x10000000, 0x20000000⟩, ⟨0, 0⟩, 0x80000000, 0, false, false⟩) := by decide
/-- Vector A19. -/
theorem test_dec_wraps : serve ⟨0x00000105, 0x00000000, 0x00000000⟩ ⟨⟨0, 0⟩, ⟨0x10, 0x20⟩, 0x80000000, 0, false, false⟩ =
    some (0x00000000, ⟨⟨0, 0⟩, ⟨0xFFFFFFF0, 0x20⟩, 0x80000000, 0, false, false⟩) := by decide
/-- Vector A21. -/
theorem test_getph : serve ⟨0x00000106, 0x00000000, 0x00000000⟩ ⟨⟨0, 0⟩, ⟨0xCAFEF00D, 0⟩, 0x80000000, 0, false, false⟩ =
    some (0xCAFEF00D, ⟨⟨0, 0⟩, ⟨0xCAFEF00D, 0⟩, 0x80000000, 0, false, false⟩) := by decide
/-- Vector A22. -/
theorem test_setph_keeps_inc : serve ⟨0x00000007, 0xFFFFFFFF, 0x00000000⟩ ⟨⟨0x1, 0x2⟩, ⟨0, 0⟩, 0x80000000, 0, false, false⟩ =
    some (0x00000000, ⟨⟨0xFFFFFFFF, 0x2⟩, ⟨0, 0⟩, 0x80000000, 0, false, false⟩) := by decide
/-- Vector A23. -/
theorem test_getinc : serve ⟨0x00000108, 0x00000000, 0x00000000⟩ ⟨⟨0, 0⟩, ⟨0, 0xABCD⟩, 0x80000000, 0, false, false⟩ =
    some (0x0000ABCD, ⟨⟨0, 0⟩, ⟨0, 0xABCD⟩, 0x80000000, 0, false, false⟩) := by decide
/-- Vector A24. -/
theorem test_setinc_keeps_ph : serve ⟨0x00000009, 0x80000000, 0x00000000⟩ ⟨⟨0x42, 0⟩, ⟨0, 0⟩, 0x80000000, 0, false, false⟩ =
    some (0x00000000, ⟨⟨0x42, 0x80000000⟩, ⟨0, 0⟩, 0x80000000, 0, false, false⟩) := by decide
/-- Vector A31. -/
theorem test_setfreq_tie_rounds_up : serve ⟨0x0000000A, 0x00000001, 0x00020000⟩ ⟨⟨0, 0⟩, ⟨0, 0⟩, 0x80000000, 0, false, false⟩ =
    some (0x00000000, ⟨⟨0, 0x00000001⟩, ⟨0, 0⟩, 0x80000000, 0, false, false⟩) := by decide
/-- Vector A34. -/
theorem test_setfreq_zero_rate : serve ⟨0x0000000A, 0x01B80000, 0x00000000⟩ ⟨⟨0, 0x12345678⟩, ⟨0, 0⟩, 0x80000000, 0, false, false⟩ =
    some (0x00000000, ⟨⟨0, 0x12345678⟩, ⟨0, 0⟩, 0x80000000, 0, false, true⟩) := by decide
/-- Vector A37. -/
theorem test_setper_rounds : serve ⟨0x0000000B, 0x00640000, 0x00000000⟩ ⟨⟨0, 0⟩, ⟨0, 0⟩, 0x80000000, 0, false, false⟩ =
    some (0x00000000, ⟨⟨0, 0x028F5C29⟩, ⟨0, 0⟩, 0x80000000, 0, false, false⟩) := by decide
/-- Vector A43. -/
theorem test_setper_zero : serve ⟨0x0000000B, 0x00000000, 0x00000000⟩ ⟨⟨0, 0x12345678⟩, ⟨0, 0⟩, 0x80000000, 0, false, false⟩ =
    some (0x00000000, ⟨⟨0, 0x12345678⟩, ⟨0, 0⟩, 0x80000000, 0, false, true⟩) := by decide
/-- Vector W4. -/
theorem test_sin_top_entry : serve ⟨0x00000010, 0x00000000, 0x00000000⟩ ⟨⟨0xFFFFFFFF, 0x1⟩, ⟨0, 0⟩, 0x80000000, 0, false, false⟩ =
    some (0xFFFFFF9B, ⟨⟨0x00000000, 0x1⟩, ⟨0, 0⟩, 0x80000000, 0, false, false⟩) := by decide
/-- Vector W5. -/
theorem test_sin_ignores_operands : serve ⟨0x00000010, 0xFFFFFFFF, 0xFFFFFFFF⟩ ⟨⟨0x20000000, 0⟩, ⟨0x5, 0x7⟩, 0x80000000, 0x1234, false, false⟩ =
    some (0x00002D41, ⟨⟨0x20000000, 0⟩, ⟨0x5, 0x7⟩, 0x80000000, 0x1234, false, false⟩) := by decide
/-- Vector U3. -/
theorem test_pulse_just_above : serve ⟨0x00000012, 0x00000000, 0x00000000⟩ ⟨⟨0x80000001, 0⟩, ⟨0, 0⟩, 0x80000000, 0, false, false⟩ =
    some (0x00004000, ⟨⟨0x80000001, 0⟩, ⟨0, 0⟩, 0x80000000, 0, false, false⟩) := by decide
/-- Vector U5. -/
theorem test_pulse_full_width : serve ⟨0x00000012, 0x00000000, 0x00000000⟩ ⟨⟨0xFFFFFFFF, 0⟩, ⟨0, 0⟩, 0xFFFFFFFF, 0, false, false⟩ =
    some (0xFFFFC000, ⟨⟨0xFFFFFFFF, 0⟩, ⟨0, 0⟩, 0xFFFFFFFF, 0, false, false⟩) := by decide
/-- Vector U9. -/
theorem test_pulseo_behind : serve ⟨0x00000013, 0xFFFFFFFF, 0x00000000⟩ ⟨⟨0, 0x40000000⟩, ⟨0, 0⟩, 0x80000000, 0, false, false⟩ =
    some (0x00004000, ⟨⟨0x40000000, 0x40000000⟩, ⟨0, 0⟩, 0x80000000, 0, false, false⟩) := by decide
/-- Vector U10. -/
theorem test_pulseo_low : serve ⟨0x00000013, 0xFFFFFFFF, 0x00000000⟩ ⟨⟨0x90000000, 0x20000000⟩, ⟨0, 0⟩, 0x80000000, 0, false, false⟩ =
    some (0xFFFFC000, ⟨⟨0xB0000000, 0x20000000⟩, ⟨0, 0⟩, 0x80000000, 0, false, false⟩) := by decide
/-- Vector U12. -/
theorem test_getw : serve ⟨0x00000014, 0x00000000, 0x00000000⟩ ⟨⟨0, 0⟩, ⟨0, 0⟩, 0x80000000, 0, false, false⟩ =
    some (0x80000000, ⟨⟨0, 0⟩, ⟨0, 0⟩, 0x80000000, 0, false, false⟩) := by decide
/-- Vector U13. -/
theorem test_setw : serve ⟨0x00000015, 0x20000000, 0x00000000⟩ ⟨⟨0, 0⟩, ⟨0, 0⟩, 0x80000000, 0, false, false⟩ =
    some (0x00000000, ⟨⟨0, 0⟩, ⟨0, 0⟩, 0x20000000, 0, false, false⟩) := by decide
/-- Vector M5. -/
theorem test_fm_nonzero_gain : serve ⟨0x00000018, 0x00000000, 0x00000000⟩ ⟨⟨0x40000000, 0x1000000⟩, ⟨0x20000000, 0x100000⟩, 0x80000000, 0x10000000, false, false⟩ =
    some (0x00003D93, ⟨⟨0x41000000, 0x1000000⟩, ⟨0x20100000, 0x100000⟩, 0x80000000, 0x10000000, false, false⟩) := by decide
/-- Vector M7. -/
theorem test_fm_greatest_gain : serve ⟨0x00000018, 0x00000000, 0x00000000⟩ ⟨⟨0xF0000000, 0x20000000⟩, ⟨0x60000000, 0x30000000⟩, 0x80000000, 0xFFFFFFFF, false, false⟩ =
    some (0xFFFFCD8C, ⟨⟨0x10000000, 0x20000000⟩, ⟨0x90000000, 0x30000000⟩, 0x80000000, 0xFFFFFFFF, false, false⟩) := by decide
/-- Vector M4. -/
theorem test_fmo_ahead : serve ⟨0x00000019, 0x00000001, 0x00000000⟩ ⟨⟨0, 0x40000000⟩, ⟨0, 0x40000000⟩, 0x80000000, 0x40000000, false, false⟩ =
    some (0x00000000, ⟨⟨0x40000000, 0x40000000⟩, ⟨0x40000000, 0x40000000⟩, 0x80000000, 0x40000000, false, false⟩) := by decide
/-- Vector M6. -/
theorem test_fmo_behind : serve ⟨0x00000019, 0xFFFFFFFC, 0x00000000⟩ ⟨⟨0x40000000, 0x1000000⟩, ⟨0x20000000, 0x100000⟩, 0x80000000, 0x10000000, false, false⟩ =
    some (0x00003F0F, ⟨⟨0x41000000, 0x1000000⟩, ⟨0x20100000, 0x100000⟩, 0x80000000, 0x10000000, false, false⟩) := by decide
/-- Vector M8. -/
theorem test_getg : serve ⟨0x0000001A, 0x00000000, 0x00000000⟩ ⟨⟨0, 0⟩, ⟨0, 0⟩, 0x80000000, 0, false, false⟩ =
    some (0x00000000, ⟨⟨0, 0⟩, ⟨0, 0⟩, 0x80000000, 0, false, false⟩) := by decide
/-- Vector M9. -/
theorem test_setg : serve ⟨0x0000001B, 0x00400000, 0x00000000⟩ ⟨⟨0, 0⟩, ⟨0, 0⟩, 0x80000000, 0, false, false⟩ =
    some (0x00000000, ⟨⟨0, 0⟩, ⟨0, 0⟩, 0x80000000, 0x00400000, false, false⟩) := by decide
/-- Vector X1. -/
theorem test_nop_ignores_operands : serve ⟨0x00000000, 0xFFFFFFFF, 0xFFFFFFFF⟩ ⟨⟨0x5, 0x1⟩, ⟨0, 0⟩, 0x80000000, 0, false, false⟩ =
    some (0x00000000, ⟨⟨0x5, 0x1⟩, ⟨0, 0⟩, 0x80000000, 0, false, false⟩) := by decide
/-- Vector X2. -/
theorem test_getst : serve ⟨0x00000020, 0x00000000, 0x00000000⟩ ⟨⟨0, 0⟩, ⟨0, 0⟩, 0x80000000, 0, true, true⟩ =
    some (0x00000003, ⟨⟨0, 0⟩, ⟨0, 0⟩, 0x80000000, 0, true, true⟩) := by decide
/-- Vector X3. -/
theorem test_clrst : serve ⟨0x00000021, 0x00000000, 0x00000000⟩ ⟨⟨0, 0⟩, ⟨0, 0⟩, 0x80000000, 0, true, true⟩ =
    some (0x00000000, ⟨⟨0, 0⟩, ⟨0, 0⟩, 0x80000000, 0, false, false⟩) := by decide
/-- Vector X5. -/
theorem test_illegal_select : serve ⟨0x00000110, 0x00000000, 0x00000000⟩ ⟨⟨0x7, 0x1⟩, ⟨0, 0⟩, 0x80000000, 0, false, false⟩ =
    some (0x00000000, ⟨⟨0x7, 0x1⟩, ⟨0, 0⟩, 0x80000000, 0, true, false⟩) := by decide
/-- Vector X10. -/
theorem test_illegal_keeps_pv : serve ⟨0x0000000C, 0x00000000, 0x00000000⟩ ⟨⟨0, 0⟩, ⟨0, 0⟩, 0x80000000, 0, false, true⟩ =
    some (0x00000000, ⟨⟨0, 0⟩, ⟨0, 0⟩, 0x80000000, 0, true, true⟩) := by decide

/-! ### Worked values of the functions -/

/-- 95_test_vectors.md 2.4: rounding toward minus infinity, and the greatest gain. -/
theorem test_fm_pert : fmPert (-1) 1 = 0xFFFFFFFF ∧ fmPert 1 1 = 0 ∧ fmPert (-101) 0x00400000 = 0xFFFF9B00 ∧
    fmPert 16384 0xFFFFFFFF = 0xFFFFFFFF ∧ fmPert (-16384) 0xFFFFFFFF = 0x00000001 := by decide
/-- 95_test_vectors.md 2.2: the edges of entries of the ROM. -/
theorem test_sine_lookup : sineLu 0x003FFFFF = 0 ∧ sineLu 0x00400000 = 101 ∧ sineLu 0x10000000 = 6270 ∧
    sineLu 0x803FFFFF = 0 ∧ sineLu 0x80400000 = -101 ∧ sineLu 0xE0000000 = -11585 := by decide
/-- R56: 440 Hz as an operand word is 0x01B80000 (R55's example). -/
theorem test_uq16 : uq16 440 = 0x01B80000 := by decide
/-- R125, R49: 440.5 Hz is FREQ = 440.5 * 65536 = 0x01B88000. -/
theorem test_frequency_word : frequencyWord ⟨881, 2, by decide, by decide⟩ = 0x01B88000 := by decide
/-- R125: the FM generator at carrier 440 Hz, modulator 110.25 Hz, 44100 samples per second. -/
theorem test_fm_construction : (Construction.fm 440 ⟨441, 4, by decide, by decide⟩ 44100 1).increments =
    [.setfreq .pa0 0x01B80000 44100, .setfreq .pa1 0x006E4000 44100] := by decide
/-- R34: byte 0 of a word on a host's bus holds bits 7:0. -/
theorem test_bytes : wordToBytes 0x12345678 = [0x78, 0x56, 0x34, 0x12] ∧
    wordOfBytes 0x78 0x56 0x34 0x12 = 0x12345678 := by decide

/-! ### The step -/

/-- The next state of an answer, if it is one. -/
def nextOf : Result → Option State
  | .next t => some t
  | .fault _ => none
  | .refused _ => none

/-- 95_test_vectors.md P4, command 1: the error is recorded with the index of its command. -/
theorem test_step_records_error :
    nextOf (step { State.reset with index := 1, pending := [.command ⟨0x0000010A, 0x03700000, 0⟩], responses := [0] }) =
      some { State.reset with
        regs := { Regs.reset with pv := true }, index := 2, responses := [0, 0], faults := [⟨1, .pv⟩] } := by decide
/-- P4, command 7: CLRST clears STATUS and keeps the record (D22). -/
theorem test_step_clrst_keeps_record :
    nextOf (step { State.reset with
        regs := { Regs.reset with ill := true }, pending := [.command ⟨0x00000021, 0, 0⟩], faults := [⟨4, .ill⟩] }) =
      some { State.reset with index := 1, responses := [0], faults := [⟨4, .ill⟩] } := by decide
/-- The first instruction after reset is the one `withFetchWord` places. -/
theorem test_step_first_word :
    nextOf (step (State.reset.withFetchWord 32 0x00000014)) =
      some { State.reset with index := 1, responses := [0x80000000] } := by decide

/-! ### The port -/

/-- R129: the port takes a command right after reset. -/
theorem test_port_accepts : Port.reset.accepts ⟨true, true, ⟨0x00000001, 0, 0⟩⟩ = true := by decide
/-- R129: it takes none while `rst_n` is 0. -/
theorem test_port_refuses_in_reset : Port.reset.accepts ⟨false, true, ⟨0x00000001, 0, 0⟩⟩ = false := by decide
/-- R129: it is not ready while a command is in flight. -/
theorem test_port_busy :
    (Port.mk State.reset (some ⟨⟨0x00000001, 0, 0⟩, 3⟩) none 0).out.cmdReady = false := by decide

/-! ### The assembler: the examples of R55 and R56 -/

theorem test_asm_adv : assembleLine "ADV a1".toList = .command (.adv .pa1) := by decide
theorem test_asm_advo : assembleLine "ADVO a0, -3 ; look behind".toList = .command (.advo .pa0 (-3)) := by decide
theorem test_asm_setfreq :
    assembleLine "SETFREQ a0, 0x01B80000, 44100".toList = .command (.setfreq .pa0 0x01B80000 44100) := by decide
theorem test_asm_pulseo : assembleLine "PULSEO 5".toList = .command (.pulseo 5) := by decide
theorem test_asm_setg : assembleLine "SETG 0x00400000".toList = .command (.setg 0x00400000) := by decide
theorem test_asm_fm : assembleLine "FM".toList = .command .fm := by decide
/-- "An omitted operand word assembles as 0" (R55). -/
theorem test_asm_omitted : assembleLine "ADVO a1".toList = .command (.advo .pa1 0) := by decide
theorem test_asm_comment : assembleLine "  ; nothing".toList = .blank := by decide
/-- A generator command takes no accumulator operand (R48). -/
theorem test_asm_refuses_select : assembleLine "SIN a1".toList = .error := by decide
theorem test_asm_sethz :
    assembleLine "SETHZ a0, 440, 44100".toList = .command (.setfreq .pa0 0x01B80000 44100) := by decide
theorem test_asm_setpern : assembleLine "SETPERN a1, 4".toList = .command (.setper .pa1 0x00040000) := by decide
theorem test_asm_square : assembleLine "SQUARE".toList = .command (.setw 0x80000000) := by decide
theorem test_asm_setwfrac : assembleLine "SETWFRAC 0.25".toList = .command (.setw 0x40000000) := by decide
/-- The threshold fraction lies in [0, 1) (R56). -/
theorem test_asm_refuses_whole_fraction : assembleLine "SETWFRAC 1".toList = .error := by decide

/-! ### Witnesses: the hypotheses of each obligation are met -/

/-- A state that is not the reset state: both accumulators move, one error is on record and its bit is set. -/
def busy : State :=
  { regs := ⟨⟨0xA0000000, 0x30000000⟩, ⟨0x00000010, 0x00000020⟩, 0x80000000, 0, false, true⟩
    pending := [.command ⟨0x00000101, 0, 0⟩, .reset]
    index := 2
    responses := [7, 0]
    faults := [⟨1, .pv⟩] }

theorem witness_DecodeEncodeRoundTrip : WellFormed (.advo .pa1 (-2147483648)) ∧ WellFormed (.pulseo 2147483647) ∧
    WellFormed (.fmo 0) ∧ WellFormed (.setfreq .pa0 0xFFFFFFFF 0) := by decide
theorem witness_DecodedCommandReencodes : decode ⟨0x00000102, 0x80000000, 5⟩ = .ok (.advo .pa1 (-2147483648)) := by
  decide
theorem witness_LegalityAsInR47_illegal : LegalWord 0x00000121 → False := by
  rintro ⟨_, o, _, ho, h | h⟩
  · exact absurd h (by decide)
  · cases o <;> first | exact absurd ho (by decide) | exact absurd h (by decide)
theorem witness_LegalityAsInR47_legal : LegalWord 0x0000010B := ⟨by decide, .setper, by decide, by decide, .inr rfl⟩
theorem witness_IllegalCommandSetsIll_opcode : ∀ o : Op, cmdOp 0x000000FF ≠ o.code := by intro o; cases o <;> decide
theorem witness_IllegalCommandSetsIll_highBits : cmdHigh 0x00000200 ≠ 0 ∧ cmdHigh 0x80000000 ≠ 0 := by decide
theorem witness_IllegalCommandSetsIll_select :
    cmdA 0x00000110 = true ∧ cmdOp 0x00000110 = Op.code .sin ∧ Op.cls .sin = .gen ∧
    cmdA 0x00000120 = true ∧ cmdOp 0x00000120 = Op.code .getst ∧ Op.cls .getst = .ctl := by decide
theorem witness_IllegalCommandSetsIll_pending :
    ({ busy with pending := [.command ⟨0x000000FF, 0, 0⟩] } : State).pending = .command ⟨0x000000FF, 0, 0⟩ :: [] := rfl
theorem witness_StepRunsDecodedCommand :
    busy.pending = .command ⟨0x00000101, 0, 0⟩ :: [.reset] ∧ decode ⟨0x00000101, 0, 0⟩ = .ok (.adv .pa1) := by decide
theorem witness_IdleAndResetSteps_idle : State.reset.pending = [] := rfl
theorem witness_IdleAndResetSteps_reset : ({ busy with pending := [.reset] } : State).pending = .reset :: [] := rfl
theorem witness_ResetWritesEveryRegister : ({ busy with pending := [.reset] } : State).pending = .reset :: [] := rfl
theorem witness_IndexAdvancesByOnePerCommand : busy.pending = .command ⟨0x00000101, 0, 0⟩ :: [.reset] := rfl
theorem witness_AccountedKeptByEveryStep : Accounted busy ∧ ∃ t, step busy = .next t :=
  ⟨⟨rfl, by decide, by decide, by decide, by decide⟩, _, rfl⟩
theorem witness_ErrorFreeRunsStayFaultless :
    Accounted (State.reset.withFetchWord 32 1) ∧ Faultless (State.reset.withFetchWord 32 1) ∧
    (State.reset.withFetchWord 32 1).pending = [.command ⟨1, 0, 0⟩] ∧ commandError ⟨1, 0, 0⟩ = none :=
  ⟨⟨rfl, by decide, by decide, by decide, by decide⟩, rfl, by decide, by decide⟩
theorem witness_OnlyListedRegistersAreWritten :
    (∃ t, exec (.adv .pa1) busy = .next t) ∧ RegName.ph .pa0 ∉ instrWrites (.adv .pa1) := ⟨⟨_, rfl⟩, by decide⟩
theorem witness_OnlyListedRegistersAreRead : ∀ r ∈ instrReads (.isst .pa1),
    busy.regs.read r = ({ busy.regs with gain := 9, pa0 := ⟨1, 2⟩ } : Regs).read r := by decide
theorem witness_SampleCallsNeverRaise : isSampleCall (.fmo (-1)) = true ∧ isSampleCall (.dec .pa1) = true := by decide
theorem witness_StatusBitsAreSticky :
    (∃ t, transact ⟨0x00000011, 0, 0⟩ busy = .next t) ∧ decode ⟨0x00000011, 0, 0⟩ ≠ .ok .clrst ∧ busy.regs.pv = true :=
  ⟨⟨_, rfl⟩, by decide, rfl⟩
theorem witness_StatusBitsAreSticky_ill : ({ busy.regs with ill := true } : Regs).ill = true := rfl
theorem witness_OutputsDependOnRegistersAndCommand :
    busy.regs = ({ State.reset with regs := busy.regs } : State).regs ∧ busy.index ≠ State.reset.index := by decide
theorem witness_ReadOnlyAndIdempotentCommands :
    (Instr.isst .pa1).op ∈ [Op.nop, .isst, .getph, .getinc, .getw, .getg, .getst] ∧
    (Instr.setfreq .pa0 1 0).op ∈ [Op.setph, .setinc, .setfreq, .setper, .setw, .setg, .clrst] := by decide
theorem witness_IndependentCommandsCommute :
    (∀ r ∈ instrWrites (.setph .pa0 5), r ∉ instrReads (.setinc .pa0 7) ∧ r ∉ instrWrites (.setinc .pa0 7)) ∧
    (∀ r ∈ instrWrites (.setinc .pa0 7), r ∉ instrReads (.setph .pa0 5)) := by decide
theorem witness_IsstComparesPhaseWithIncrement : State.reset.inc .pa1 = 0 := rfl
theorem witness_SetfreqWritesIncrement : (1 : Word) ≠ 0 ∧ (0xFFFFFFFF : Word) ≠ 0 := by decide
theorem witness_SetperWritesIncrement : (0x00010000 : Word) ≠ 0 ∧ (1 : Word) ≠ 0 := by decide
theorem witness_ConversionsRoundToNearest : (0x00020000 : Word) ≠ 0 ∧ (1 : Word) ≠ 0 := by decide
theorem witness_ZeroFrequencyIsSilent : (44100 : Word) ≠ 0 ∧ State.reset.inc .pa0 = 0 := by decide
/-- 440 Hz at 44100 (95_test_vectors.md S6): N is 100. -/
theorem witness_WraparoundLaw :
    (State.inc .pa0 { State.reset with regs := { Regs.reset with pa0 := ⟨0, 0x028DDFB9⟩ } }) ≠ 0 ∧
    100 = (2 ^ 33 + (0x028DDFB9 : Word).toNat) / (2 * (0x028DDFB9 : Word).toNat) := by decide
theorem witness_OffsetConsistency : ∃ s, issue 1 (.adv .pa1) busy = .next s ∧ s.ph .pa1 = 0x00000030 :=
  ⟨_, issue_eq_iterate (f := fun s => (accAdvance .pa1 0 s).2.respond (accAdvance .pa1 0 s).1) (by decide)
    (fun _ => rfl) 1 busy, by decide⟩
theorem witness_CycleStartDetection : isSampleCall (.adv .pa0) = true ∧ Instr.adv .pa0 ≠ .dec .pa0 ∧
    RegName.ph .pa0 ∈ instrWrites (.adv .pa0) ∧ busy.inc .pa0 ≠ 0 := by decide
/-- S8: the step from 0xD0000000 at 0x30000000 just reaches 2^32; the one from 0xA0000000 does not. -/
theorem witness_CycleStartDetection_wrap :
    2 ^ 32 ≤ (0xD0000000 : Word).toNat + (0x30000000 : Word).toNat ∧
    ¬ 2 ^ 32 ≤ (busy.ph .pa0).toNat + (busy.inc .pa0).toNat := by decide
theorem witness_RomImageProperties : 1 ≤ (1023 : Fin 1024).val ∧ 1 ≤ (511 : Fin 512).val := by decide
theorem witness_SineLookupSignsAndValues :
    (0x00400000 : Word).toNat / 2 ^ 22 = (0x007FFFFF : Word).toNat / 2 ^ 22 := by decide

/-- R93's example: a state at the start of a cycle of four samples. -/
def quarter : State := { State.reset with regs := { Regs.reset with pa0 := ⟨0, 0x40000000⟩ } }

theorem witness_UpwardCrossingsAreAtWraps :
    0 < (quarter.inc .pa0).toNat ∧ (quarter.inc .pa0).toNat ≤ 511 * 2 ^ 22 ∧
    (phaseAt .pa0 quarter 0).toNat < (quarter.inc .pa0).toNat ∧
    (phaseAt .pa0 quarter 4).toNat < (quarter.inc .pa0).toNat ∧
    (∀ l, l < 4 → 0 < l → ¬ (phaseAt .pa0 quarter l).toNat < (quarter.inc .pa0).toNat) := by decide
theorem witness_PulseSymmetry :
    quarter.regs.width = 0x80000000 ∧ 0 < (quarter.inc .pa0).toNat ∧ (quarter.inc .pa0).toNat < 2 ^ 31 ∧ 0 < 4 ∧
    (quarter.ph .pa0).toNat < (quarter.inc .pa0).toNat ∧
    (phaseAt .pa0 quarter 4).toNat < (quarter.inc .pa0).toNat ∧
    (∀ l, l < 4 → 0 < l → ¬ (phaseAt .pa0 quarter l).toNat < (quarter.inc .pa0).toNat) := by decide
theorem witness_PerturbationIsFlooredProduct : |(16384 : Amp).toInt| ≤ 16384 ∧ |(-16384 : Amp).toInt| ≤ 16384 := by
  decide
theorem witness_FmAtZeroGainIsSine : quarter.regs.gain = 0 ∧ quarter.regs.pa0 = quarter.regs.pa0 ∧
    quarter.responses = quarter.responses := by decide
theorem witness_PseudoInstructionsMeanTheirNotes :
    65535 < 65536 ∧ 1 ≤ 1 ∧ 0 < 1 ∧ (Pseudo.setwfrac 1 4).expand = .setw 0x40000000 := by decide
/-- Whatever LAT is, there are that many edges to take. -/
theorem witness_PortAnswersAfterLatency :
    Port.reset.accepts ⟨true, true, ⟨0x00000001, 0, 0⟩⟩ = true ∧
    (List.replicate Config.latExtra (PortIn.mk true false ⟨0, 0, 0⟩)).length + 1 = Config.latency ∧
    ∀ x ∈ List.replicate Config.latExtra (PortIn.mk true false ⟨0, 0, 0⟩), x.rstN = true :=
  ⟨by decide, by rw [List.length_replicate]; rfl, fun _ hx => by rw [List.eq_of_mem_replicate hx]⟩
theorem witness_PortIdleHoldsState : Port.reset.flight = none ∧
    Port.reset.accepts ⟨true, false, ⟨0x00000001, 0, 0⟩⟩ = false := by decide
theorem witness_PortResetLosesFlight : (PortIn.mk false true ⟨0x00000001, 0, 0⟩).rstN = false := rfl

end Sys2Proof.Tests
end

/-! ## Proofs: the state family (10_state.md)

First the equations of `transact` and `step` per case of their definitions; then the index (R23); then that two states
with the same registers are answered alike (R26). -/

namespace Sys2Proof.Machine

/-! ### One equation per case of `transact` and `step` -/

theorem transact_of_ok {c : Command} {i : Instr} (hd : decode c = .ok i) (s : State) :
    transact c s = onNext State.countCommand (exec i s) := by
  simp only [transact, hd]

theorem transact_of_illegal {c : Command} {why : Illegal} (hd : decode c = .illegal why) (s : State) :
    transact c s = .next (s.raise .ill).countCommand := by
  simp only [transact, hd, illegalCommand, onNext_next]

theorem step_of_command {s : State} {c : Command} {rest : List HostInput} (hp : s.pending = .command c :: rest) :
    step s = onNext State.dropInput (transact c s) := by
  simp only [step, hp]

/-! ### The index (R23) -/

/-- Every transaction, legal or not, is served and then counted. -/
theorem transact_served (c : Command) (s : State) : ∃ t, transact c s = .next t.countCommand ∧ Served s t := by
  cases hd : decode c with
  | ok i =>
    obtain ⟨t, ht, hs⟩ := exec_served i s
    exact ⟨t, by rw [transact_of_ok hd, ht, onNext_next], hs⟩
  | illegal why => exact ⟨s.raise .ill, transact_of_illegal hd s, served_raise .ill s⟩

/-- Settles O12: every transaction is served and counted, and serving moves neither the index nor the host's list. -/
theorem indexAdvancesByOnePerCommand : Obligations.IndexAdvancesByOnePerCommand := by
  refine ⟨rfl, fun s c rest hp => ?_⟩
  obtain ⟨t, ht, hs⟩ := transact_served c s
  refine ⟨t.countCommand.dropInput, by rw [step_of_command hp, ht, onNext_next], ?_, ?_⟩
  · simp [hs.index]
  · simp [hs.pending, hp]

/-! ### The registers and the command determine the answer (R26) -/

/-- The answers `x` from `s` and `y` from `u` are next states with the same registers and the same new response. -/
def AnsweredAlike (s u : State) (x y : Result) : Prop :=
  ∃ s' u' v, x = .next s' ∧ y = .next u' ∧ s'.regs = u'.regs ∧
    s'.responses = s.responses ++ [v] ∧ u'.responses = u.responses ++ [v]

/-- Equal registers written and the same word answered, on states whose responses are those before the command. -/
theorem answeredAlike_respond {s u s' u' : State} {v w : Word} (hr : s'.regs = u'.regs) (hv : v = w)
    (hs : s'.responses = s.responses) (hu : u'.responses = u.responses) :
    AnsweredAlike s u (.next (s'.respond v)) (.next (u'.respond w)) :=
  ⟨_, _, v, rfl, rfl, hr, congrArg (· ++ [v]) hs, by rw [State.respond_responses, hu, hv]⟩

theorem answeredAlike_raise {s u : State} (e : Fault) (h : s.regs = u.regs) :
    AnsweredAlike s u (.next (s.raise e)) (.next (u.raise e)) :=
  answeredAlike_respond (congrArg (Regs.setFlag e) h) rfl rfl rfl

/-- Counting the command changes neither the registers nor the response. -/
theorem AnsweredAlike.countCommand {s u : State} {x y : Result} (h : AnsweredAlike s u x y) :
    AnsweredAlike s u (onNext State.countCommand x) (onNext State.countCommand y) := by
  obtain ⟨s', u', v, rfl, rfl, hr, hs, hu⟩ := h
  exact ⟨s'.countCommand, u'.countCommand, v, rfl, rfl, hr, hs, hu⟩

/-- Once the two states share one `regs`, what a meaning writes and what it answers are the same terms on both sides;
only the choice between raising PV and going on depends on more, and that is on the operands alone. -/
theorem exec_answeredAlike (i : Instr) {s u : State} (h : s.regs = u.regs) :
    AnsweredAlike s u (exec i s) (exec i u) := by
  obtain ⟨r, ps, ns, vs, es⟩ := s
  obtain ⟨_, pu, nu, vu, eu⟩ := u
  cases h
  cases i with
  | setfreq a freq sr =>
    simp only [exec, execSetfreq]
    split
    · exact answeredAlike_raise .pv rfl
    · exact answeredAlike_respond rfl rfl rfl rfl
  | setper a period =>
    simp only [exec, execSetper]
    split
    · exact answeredAlike_raise .pv rfl
    · exact answeredAlike_respond rfl rfl rfl rfl
  | _ => exact answeredAlike_respond rfl rfl rfl rfl

/-- Settles O21: the decoder sees the command alone, and every meaning, like ILL, only the registers beside it. -/
theorem outputsDependOnRegistersAndCommand : Obligations.OutputsDependOnRegistersAndCommand := by
  intro c s u h
  change AnsweredAlike s u (transact c s) (transact c u)
  cases hd : decode c with
  | ok i =>
    rw [transact_of_ok hd, transact_of_ok hd]
    exact (exec_answeredAlike i h).countCommand
  | illegal why =>
    rw [transact_of_illegal hd, transact_of_illegal hd]
    exact (answeredAlike_raise .ill h).countCommand

end Sys2Proof.Machine

/-! ## Proofs: the memory family (20_memory.md)

Both symmetries of R32 are read off the table as one list: entry 0, an arch of 511 entries that reads the same backwards,
entry 512, and the arch negated. The closed facts about so long a list are decided in the kernel, since it is deeper than
the elaborator's recursion limit. -/

namespace Sys2Proof.Machine

/-! ### The table as one list -/

/-- Rows of one length `n`, end to end: position `i` is position `i mod n` of row `i div n`. -/
theorem getD_flatten_of_rows {α : Type} {n : Nat} (hn : 0 < n) (d : α) :
    ∀ (rows : List (List α)) (i : Nat), (∀ r ∈ rows, r.length = n) →
      rows.flatten.getD i d = (rows.getD (i / n) []).getD (i % n) d
  | [], i, _ => by simp
  | r :: rows, i, hlen => by
    obtain ⟨hr, hrows⟩ := List.forall_mem_cons.mp hlen
    rw [List.flatten_cons]
    rcases Nat.lt_or_ge i n with hi | hi
    · rw [List.getD_append _ _ _ _ (hr ▸ hi), Nat.div_eq_of_lt hi, Nat.mod_eq_of_lt hi, List.getD_cons_zero]
    · rw [List.getD_append_right _ _ _ _ (hr ▸ hi), hr, getD_flatten_of_rows hn d rows _ hrows,
        Nat.div_eq_sub_div hn hi, List.getD_cons_succ, Nat.mod_eq_sub_mod hi]

/-- Entries 1 to 511 of R33's table. -/
def romArch : List Int := (romRowsA ++ romRowsB).flatten.tail

theorem romArch_length : romArch.length = 511 := by decide +kernel

theorem romArch_reverse : romArch.reverse = romArch := by decide +kernel

theorem romArch_bounds : ∀ x ∈ romArch, 0 < x ∧ x ≤ 16384 := by decide +kernel

theorem romRows_length : ∀ r ∈ romRows, r.length = 16 := by decide

theorem romRows_flatten : romRows.flatten = 0 :: (romArch ++ 0 :: romArch.map (- ·)) := by decide +kernel

theorem romEntry_eq_getD_flatten (i : Nat) : romEntry i = romRows.flatten.getD i 0 :=
  (getD_flatten_of_rows (by decide) 0 romRows i romRows_length).symm

/-! ### The entries by their place in the table -/

theorem romEntry_firstHalf {k : Nat} (hk : k < 511) : romEntry (k + 1) = romArch.getD k 0 := by
  rw [romEntry_eq_getD_flatten, romRows_flatten, List.getD_cons_succ,
    List.getD_append _ _ _ _ (romArch_length.symm ▸ hk)]

theorem romEntry_secondHalf (k : Nat) : romEntry (k + 513) = -romArch.getD k 0 := by
  rw [romEntry_eq_getD_flatten, romRows_flatten, List.getD_cons_succ,
    List.getD_append_right _ _ _ _ (by rw [romArch_length]; omega), romArch_length,
    show k + 512 - 511 = k + 1 by omega, List.getD_cons_succ]
  exact List.getD_map romArch 0 (- ·)

theorem romArch_getD_mirror {k : Nat} (hk : k < 511) : romArch.getD (510 - k) 0 = romArch.getD k 0 := by
  have h := congrFun (List.getD_reverse (l := romArch) k (romArch_length.symm ▸ hk)) 0
  rwa [romArch_reverse, romArch_length, eq_comm] at h

theorem romArch_getD_bounds {k : Nat} (hk : k < 511) : 0 < romArch.getD k 0 ∧ romArch.getD k 0 ≤ 16384 := by
  have hl : k < romArch.length := romArch_length.symm ▸ hk
  rw [List.getD_eq_getElem _ _ hl]
  exact romArch_bounds _ (List.getElem_mem hl)

/-- The places of the table: entry 0, entry 512, and the `k`-th entry of the arch or of its negation. -/
theorem romIndex_cases {i : Nat} (hi : i < 1024) :
    i = 0 ∨ i = 512 ∨ ∃ k, k < 511 ∧ (i = k + 1 ∨ i = k + 513) := by
  by_cases hlow : i < 512
  · by_cases h0 : i = 0
    · exact .inl h0
    · exact .inr (.inr ⟨i - 1, by omega, .inl (by omega)⟩)
  · by_cases hmid : i = 512
    · exact .inr (.inl hmid)
    · exact .inr (.inr ⟨i - 513, by omega, .inr (by omega)⟩)

/-! ### The properties of R32 -/

theorem romEntry_bounds {i : Nat} (hi : i < 1024) : -16384 ≤ romEntry i ∧ romEntry i ≤ 16384 := by
  obtain rfl | rfl | ⟨k, hk, rfl | rfl⟩ := romIndex_cases hi
  · decide
  · decide
  · have := romArch_getD_bounds hk
    rw [romEntry_firstHalf hk]
    omega
  · have := romArch_getD_bounds hk
    rw [romEntry_secondHalf]
    omega

theorem romEntry_halfWave {i : Nat} (h1 : 1 ≤ i) (h2 : i < 512) : romEntry (512 - i) = romEntry i := by
  obtain ⟨k, rfl⟩ := Nat.exists_eq_add_of_le' h1
  have hk : k < 511 := by omega
  rw [show 512 - (k + 1) = 510 - k + 1 by omega, romEntry_firstHalf hk, romEntry_firstHalf (by omega),
    romArch_getD_mirror hk]

theorem romEntry_odd {i : Nat} (h1 : 1 ≤ i) (h2 : i < 1024) : romEntry i = -romEntry (1024 - i) := by
  obtain rfl | rfl | ⟨k, hk, rfl | rfl⟩ := romIndex_cases h2
  · omega
  · decide
  · rw [show 1024 - (k + 1) = 510 - k + 513 by omega, romEntry_secondHalf, romArch_getD_mirror hk, neg_neg,
      romEntry_firstHalf hk]
  · rw [show 1024 - (k + 513) = 510 - k + 1 by omega, romEntry_secondHalf,
      romEntry_firstHalf (by omega), romArch_getD_mirror hk]

/-- Every entry of the table fits sixteen bits, so the ROM holds it as it stands. -/
theorem rom_toInt (i : RomIndex) : (rom i).toInt = romEntry i.toNat := by
  have := romEntry_bounds i.isLt
  exact BitVec.toInt_ofInt_eq_self (by decide) (by omega) (by omega)

theorem rom_ofNat_toInt {i : Nat} (hi : i < 1024) : (rom (BitVec.ofNat 10 i)).toInt = romEntry i := by
  rw [rom_toInt, BitVec.toNat_ofNat, Nat.mod_eq_of_lt hi]

/-- Settles O42: the range and the two symmetries are those of the table, and the single values are read off it. -/
theorem romImageProperties : Obligations.RomImageProperties := by
  have hrange (i : RomIndex) : -16384 ≤ (rom i).toInt ∧ (rom i).toInt ≤ 16384 := by
    rw [rom_toInt]
    exact romEntry_bounds i.isLt
  have hodd (i : Fin 1024) (h1 : 1 ≤ i.val) :
      (rom (BitVec.ofNat 10 i)).toInt = -(rom (BitVec.ofNat 10 (1024 - i))).toInt := by
    rw [rom_ofNat_toInt i.isLt, rom_ofNat_toInt (by omega)]
    exact romEntry_odd h1 i.isLt
  have hhalf (i : Fin 512) (h1 : 1 ≤ i.val) : rom (BitVec.ofNat 10 (512 - i)) = rom (BitVec.ofNat 10 i) := by
    refine BitVec.eq_of_toInt_eq ?_
    rw [rom_ofNat_toInt (by omega), rom_ofNat_toInt (by omega)]
    exact romEntry_halfWave h1 i.isLt
  exact ⟨by decide, by decide, by decide, by decide, hrange, hodd, hhalf, by decide, by decide, by decide⟩

end Sys2Proof.Machine

/-! ## Proofs: the encoding family (30_encoding.md)

A word decodes exactly when it meets R47's three conditions; the decoder's answer on a legal word is said once, as an
equivalence, and legality is read off it. -/

namespace Sys2Proof

/-! ### The opcode map as a relation (R51) -/

theorem Op.mem_all (o : Op) : o ∈ Op.all := by cases o <;> decide

theorem Op.ofCode_eq_some_iff {b : BitVec 8} {o : Op} : Op.ofCode b = some o ↔ b = o.code :=
  ⟨fun h => (Op.code_of_ofCode h).symm, fun h => h ▸ Op.ofCode_code o⟩

/-! ### Legality (R47, R54) -/

/-- The words that decode, and to what: each failing test of R54 refuses, and past all three the word is assembled. -/
theorem decode_eq_ok_iff {c : Command} {i : Instr} :
    decode c = .ok i ↔ cmdHigh c.cmd = 0 ∧ ∃ o : Op, cmdOp c.cmd = o.code ∧ (cmdA c.cmd = false ∨ o.cls = .acc) ∧
      assemble o (AccSel.ofBit (cmdA c.cmd)) c.opa c.opb = i := by
  unfold decode
  split
  case isTrue hhigh => exact iff_of_false nofun fun h => hhigh h.1
  case isFalse hhigh =>
    have hhigh := not_not.mp hhigh
    cases hop : Op.ofCode (cmdOp c.cmd) with
    | none => simp [← Op.ofCode_eq_some_iff, hop]
    | some o =>
      by_cases hsel : o.cls ≠ .acc ∧ cmdA c.cmd = true
      · simp [← Op.ofCode_eq_some_iff, hop, hsel]
      · have hlegal : cmdA c.cmd = false ∨ o.cls = .acc := by
          rwa [not_and_or, not_not, Bool.not_eq_true, or_comm] at hsel
        simp [← Op.ofCode_eq_some_iff, hop, if_neg hsel, hlegal, hhigh]

theorem legalWord_iff_decodes {c : Command} : LegalWord c.cmd ↔ ∃ i, decode c = .ok i := by
  simp only [LegalWord, decode_eq_ok_iff, Op.mem_all, true_and]
  constructor
  · rintro ⟨hhigh, o, hop, hsel⟩
    exact ⟨_, hhigh, o, hop, hsel, rfl⟩
  · rintro ⟨_, hhigh, o, hop, hsel, -⟩
    exact ⟨hhigh, o, hop, hsel⟩

theorem not_legalWord_iff_refused {c : Command} : ¬ LegalWord c.cmd ↔ ∃ why, decode c = .illegal why := by
  rw [legalWord_iff_decodes]
  cases decode c <;> simp

/-- The second and third conditions of R47 speak of one operation, since an opcode names at most one. -/
theorem legalWord_iff_conditions {w : Word} :
    LegalWord w ↔ cmdHigh w = 0 ∧ (∃ o : Op, cmdOp w = o.code) ∧
      (cmdA w = false ∨ ∃ o : Op, cmdOp w = o.code ∧ o.cls = .acc) := by
  simp only [LegalWord, Op.mem_all, true_and, and_congr_right_iff]
  intro _
  constructor
  · rintro ⟨o, hop, hsel⟩
    exact ⟨⟨o, hop⟩, hsel.imp_right fun hacc => ⟨o, hop, hacc⟩⟩
  · rintro ⟨⟨o, hop⟩, hsel | ⟨p, hp, hacc⟩⟩
    · exact ⟨o, hop, .inl hsel⟩
    · exact ⟨p, hp, .inr hacc⟩

/-- Settles O3: a word is legal exactly when it decodes, and a refused one raises ILL and is then counted. -/
theorem legalityAsInR47 : Obligations.LegalityAsInR47 := by
  intro w
  refine ⟨legalWord_iff_conditions, fun hw opa opb => legalWord_iff_decodes.mp hw, fun hw opa opb s => ?_⟩
  obtain ⟨why, hd⟩ := not_legalWord_iff_refused (c := ⟨w, opa, opb⟩).mp hw
  exact ⟨_, Machine.transact_of_illegal hd s, rfl, rfl⟩

end Sys2Proof

/-! ## Proofs: the phase accumulator family (40_phase_accumulator.md)

First what a class "acc" command word decodes to; then wrapping and the accumulator's step as equations on words, and one
equation per command; then a law over `n` samples by induction on the iterates, and the rounding of a quotient. The
obligations are read off these. -/

namespace Sys2Proof

/-! ### The command words of class "acc" (R48, R54) -/

@[simp] theorem AccSel.ofBit_toBit (a : AccSel) : AccSel.ofBit a.toBit = a := by cases a <;> rfl

/-- Both command words of a class "acc" operation, one for each accumulator. -/
theorem decode_acc {o : Op} (hc : o.cls = .acc) (x y : Word) :
    decode ⟨cmdWord o false, x, y⟩ = .ok (assemble o .pa0 x y) ∧
    decode ⟨cmdWord o true, x, y⟩ = .ok (assemble o .pa1 x y) :=
  ⟨decode_cmdWord_ok x y rfl (.inl hc), decode_cmdWord_ok x y rfl (.inl hc)⟩

theorem decode_encode_acc {i : Instr} (hc : i.op.cls = .acc) :
    decode (encode i) = .ok (assemble i.op i.select i.opa i.opb) := by
  rw [encode, decode_cmdWord_ok _ _ rfl (.inl hc), AccSel.ofBit_toBit]

end Sys2Proof

namespace Sys2Proof.Machine

/-! ### Wrapping and the probe (R9, R57) -/

theorem toNat_wrap32 (x : Int) : ((wrap32 x).toNat : Int) = x % 2 ^ 32 := by
  rw [wrap32, BitVec.toNat_ofInt]
  exact Int.toNat_of_nonneg (Int.emod_nonneg x (by decide))

theorem wrap32_neg (x : Int) : wrap32 (-x) = -wrap32 x := BitVec.ofInt_neg

/-- R57's wrapping multiply and add. -/
theorem phaseAfter_eq (p d : Word) (k : Int) : phaseAfter p d k = p + wrap32 k * d := by
  rw [phaseAfter, wrap32_add, wrap32_mul, wrap32_toNat, wrap32_toNat]

theorem phaseAfter_natCast (a : AccSel) (s : State) (k : Nat) :
    phaseAfter (s.ph a) (s.inc a) k = phaseAt a s k := by
  rw [phaseAfter_eq, wrap32_natCast, phaseAt]

@[simp] theorem phaseAt_zero (a : AccSel) (s : State) : phaseAt a s 0 = s.ph a := by simp [phaseAt]

theorem phaseAt_succ (a : AccSel) (s : State) (j : Nat) : phaseAt a s (j + 1) = phaseAt a s j + s.inc a := by
  rw [phaseAt, phaseAt, BitVec.ofNat_add, BitVec.add_mul, BitVec.one_mul, BitVec.add_assoc]

/-- `k` samples back from `k` advances on is where they began (R78). -/
theorem phaseAfter_neg_phaseAt (a : AccSel) (s : State) (k : Nat) :
    phaseAfter (phaseAt a s k) (s.inc a) (-k) = s.ph a := by
  rw [phaseAfter_eq, wrap32_neg, wrap32_natCast, phaseAt, BitVec.neg_mul, ← BitVec.sub_eq_add_neg,
    BitVec.add_sub_cancel]

/-! ### Writing and reading back an accumulator (R19) -/

@[simp] theorem State.setPh_self (a : AccSel) (s : State) : s.setPh a (s.ph a) = s := by cases a <;> rfl

@[simp] theorem State.ph_reset (a : AccSel) : State.reset.ph a = 0 := by cases a <;> rfl

/-- An accumulator written twice and brought back to its phase leaves the registers as they were. -/
theorem regs_setPh_restored {a : AccSel} {s : State} {v w : Word} (hw : w = s.ph a) (x : Word) :
    (((s.setPh a v).respond x).setPh a w).regs = s.regs := by
  subst hw
  cases a <;> rfl

/-! ### One equation per command (R66 to R76) -/

theorem exec_adv (a : AccSel) (s : State) :
    exec (.adv a) s = .next ((s.setPh a (s.ph a + s.inc a)).respond (s.ph a)) := by
  simp [exec, execAdv]

theorem exec_advo (a : AccSel) (k : Int) (s : State) : exec (.advo a k) s =
    .next ((s.setPh a (s.ph a + s.inc a)).respond (phaseAfter (s.ph a) (s.inc a) k)) := by
  simp [exec, execAdvo]

theorem boolWord_decide (p : Prop) [Decidable p] : boolWord (decide p) = if p then 1 else 0 := by
  by_cases hp : p <;> simp [boolWord, hp]

theorem exec_isst (a : AccSel) (s : State) :
    exec (.isst a) s = .next (s.respond (if (s.ph a).toNat < (s.inc a).toNat then 1 else 0)) := by
  rw [exec, execIsst, Acc.isStart, boolWord_decide]
  rfl

theorem exec_inc (a : AccSel) (s : State) :
    exec (.inc a) s = .next ((s.setPh a (s.ph a + s.inc a)).respond 0) := by
  simp [exec, execInc]

theorem exec_dec (a : AccSel) (s : State) :
    exec (.dec a) s = .next ((s.setPh a (s.ph a - s.inc a)).respond 0) := by
  simp [exec, execDec]

theorem exec_getph (a : AccSel) (s : State) : exec (.getph a) s = .next (s.respond (s.ph a)) := rfl

theorem exec_getinc (a : AccSel) (s : State) : exec (.getinc a) s = .next (s.respond (s.inc a)) := rfl

theorem exec_setph (a : AccSel) (v : Word) (s : State) :
    exec (.setph a v) s = .next ((s.setPh a v).respond 0) := rfl

theorem exec_setinc (a : AccSel) (v : Word) (s : State) :
    exec (.setinc a v) s = .next ((s.setInc a v).respond 0) := rfl

theorem freqToInc_eq_ofNat (freq sr : Word) :
    freqToInc freq sr = BitVec.ofNat 32 ((freq.toNat * 2 ^ 17 + sr.toNat) / (2 * sr.toNat)) := wrap32_natCast _

theorem periodToInc_eq_ofNat (period : Word) :
    periodToInc period = BitVec.ofNat 32 ((2 ^ 49 + period.toNat) / (2 * period.toNat)) := wrap32_natCast _

theorem exec_setfreq_of_ne (a : AccSel) (freq : Word) {sr : Word} (hsr : sr ≠ 0) (s : State) :
    exec (.setfreq a freq sr) s = .next ((s.setInc a (freqToInc freq sr)).respond 0) := if_neg hsr

theorem exec_setfreq_zero (a : AccSel) (freq : Word) (s : State) :
    exec (.setfreq a freq 0) s = .next (s.raise .pv) := by
  rw [exec, execSetfreq, if_pos rfl]

theorem exec_setper_of_ne (a : AccSel) {period : Word} (hp : period ≠ 0) (s : State) :
    exec (.setper a period) s = .next ((s.setInc a (periodToInc period)).respond 0) := if_neg hp

theorem exec_setper_zero (a : AccSel) (s : State) :
    exec (.setper a 0) s = .next (s.raise .pv) := by
  rw [exec, execSetper, if_pos rfl]

/-! ### A command issued `n` times (R77, R80) -/

section
variable {f : State → State}

/-- A command that moves PA[a] one increment on, issued `n` times, moves it `n` increments on. -/
theorem iterate_issued_acc {a : AccSel} (hph : ∀ s, (f s).ph a = s.ph a + s.inc a)
    (hinc : ∀ s, (f s).inc a = s.inc a) (n : Nat) (s : State) :
    ((issued f)^[n] s).ph a = phaseAt a s n ∧ ((issued f)^[n] s).inc a = s.inc a := by
  induction n with
  | zero => exact ⟨(phaseAt_zero a s).symm, rfl⟩
  | succ n ih =>
    obtain ⟨ihph, ihinc⟩ := ih
    rw [Function.iterate_succ_apply', phaseAt_succ, ← ihph, ← ihinc]
    exact ⟨hph _, hinc _⟩

/-- A command that answers `v`, issued `n` times, answers `v` of each state it meets. -/
theorem iterate_issued_responses {v : State → Word} (hr : ∀ s, (f s).responses = s.responses ++ [v s])
    (n : Nat) (s : State) : ((issued f)^[n] s).responses =
      s.responses ++ (List.range n).map (fun j => v ((issued f)^[j] s)) := by
  induction n with
  | zero => simp
  | succ n ih =>
    rw [Function.iterate_succ_apply', List.range_succ, List.map_append, ← List.append_assoc, ← ih]
    exact hr _

end

/-- R77's run: `n` ADV answer p, p + d, ..., and leave the phase `n` increments on. -/
theorem issue_adv (n : Nat) (a : AccSel) (s : State) : ∃ t, issue n (.adv a) s = .next t ∧
    t.responses = s.responses ++ (List.range n).map (phaseAt a s) ∧
    t.ph a = phaseAt a s n ∧ t.inc a = s.inc a := by
  have hacc := iterate_issued_acc (a := a)
    (f := fun s => (s.setPh a (s.ph a + s.inc a)).respond (s.ph a)) (by simp) (by simp)
  refine ⟨_, issue_eq_iterate (decode_encode_acc rfl) (exec_adv a) n s, ?_, hacc _ _⟩
  rw [iterate_issued_responses (v := State.ph a) (fun _ => rfl)]
  exact congrArg (s.responses ++ ·) (List.map_congr_left fun j _ => (hacc j _).1)

theorem issue_inc_ph (n : Nat) (a : AccSel) (s : State) :
    ∃ t, issue n (.inc a) s = .next t ∧ t.ph a = phaseAt a s n := by
  refine ⟨_, issue_eq_iterate (decode_encode_acc rfl) (exec_inc a) n s, ?_⟩
  exact (iterate_issued_acc (by simp) (by simp) n _).1

/-! ### Rounding to nearest (R62, R63, R77) -/

/-- The integer nearest to `n / m`, ties upward: its distance from `n / m` in halves, without fractions. -/
theorem roundedQuotient_bounds (n : Nat) {m : Nat} (hm : 0 < m) :
    2 * ((2 * n + m) / (2 * m)) * m ≤ 2 * n + m ∧ 2 * n + m < 2 * ((2 * n + m) / (2 * m) + 1) * m := by
  have hle := Nat.div_mul_le_self (2 * n + m) (2 * m)
  have hlt := Nat.lt_mul_div_succ (2 * n + m) (Nat.mul_pos two_pos hm)
  constructor <;> linarith

/-- The same as a distance: `m` times the rounded quotient is within `m / 2` of `n`. -/
theorem roundedQuotient_distance {n m q : Nat} (hm : 0 < m) (hq : q = (2 * n + m) / (2 * m)) :
    2 * |(q : Int) * m - n| ≤ m := by
  obtain ⟨hle, hlt⟩ := roundedQuotient_bounds n hm
  rw [← hq] at hle hlt
  zify at hle hlt
  obtain ⟨habs, -⟩ | ⟨habs, -⟩ := abs_cases ((q : Int) * m - n)
  · linarith
  · linarith

theorem toNat_pos_of_ne_zero {v : Word} (hv : v ≠ 0) : 0 < v.toNat := by
  simpa [Nat.pos_iff_ne_zero, BitVec.toNat_eq] using hv

/-- R64: frequency 0 is increment 0. -/
theorem freqToInc_zero {sr : Word} (hsr : sr ≠ 0) : freqToInc 0 sr = 0 := by
  have hlt : sr.toNat < 2 * sr.toNat := lt_two_mul_self (toNat_pos_of_ne_zero hsr)
  rw [freqToInc_eq_ofNat, Nat.div_eq_of_lt (by simpa using hlt)]
  rfl

/-! ### The obligations of tier 2 -/

/-- Settles O35: both increments are rounded quotients. -/
theorem conversionsRoundToNearest : Obligations.ConversionsRoundToNearest := by
  refine ⟨fun freq sr hsr => ⟨_, freqToInc_eq_ofNat freq sr, ?_⟩,
    fun period hp => ⟨_, periodToInc_eq_ofNat period, ?_⟩⟩
  · rw [show freq.toNat * 2 ^ 17 = 2 * (freq.toNat * 2 ^ 16) by ring]
    exact roundedQuotient_bounds _ (toNat_pos_of_ne_zero hsr)
  · exact roundedQuotient_bounds (2 ^ 48) (toNat_pos_of_ne_zero hp)

/-- Settles O38: the run of `n` ADV, and the rounding of a whole cycle over the increment. -/
theorem wraparoundLaw : Obligations.WraparoundLaw := by
  intro a s n
  obtain ⟨t, ht, hresp, hph, -⟩ := issue_adv n a s
  exact ⟨⟨t, ht, hresp, hph⟩, fun hd hn => roundedQuotient_distance (n := 2 ^ 32) (toNat_pos_of_ne_zero hd) hn⟩

/-- Settles O39: the probe `k` samples on is the phase the last of k + 1 ADV answers, and the probe back undoes `k` of
them. -/
theorem offsetConsistency : Obligations.OffsetConsistency := by
  constructor
  · intro a k s
    obtain ⟨u, hu, hresp, -, -⟩ := issue_adv (k + 1) a s
    refine ⟨_, u, phaseAt a s k, exec_advo a k s, hu, ?_, ?_, by simp⟩
    · simp [phaseAfter_natCast]
    · simp [hresp, List.range_succ]
  · intro a k r s hs
    obtain ⟨u, hu, -, hph, hinc⟩ := issue_adv k a r
    cases hu.symm.trans hs
    refine ⟨_, exec_advo a (-k) s, ?_, by simp⟩
    simp [hph, hinc, phaseAfter_neg_phaseAt]

/-- Settles O41: ADV, ADVO and INC write one register alike, and a step back is the inverse of a step on. -/
theorem stepEquivalences : Obligations.StepEquivalences := by
  refine ⟨fun a k s => ⟨_, _, _, exec_adv a s, exec_advo a k s, exec_inc a s, rfl, rfl⟩,
    fun a s => ?_, fun a k s => ?_⟩
  · refine ⟨_, _, _, _, exec_inc a s, exec_dec a _, exec_dec a s, exec_inc a _, ?_, ?_⟩
    · exact regs_setPh_restored (by simp) 0
    · exact regs_setPh_restored (by simp) 0
  · obtain ⟨t, ht, hph⟩ := issue_inc_ph k a s
    exact ⟨t, _, ht, exec_advo a k s, by simp [hph, phaseAfter_natCast]⟩

/-! ### The obligations of tier 1 -/

/-- Settles O25: the probe as a residue and as a wrapping multiply and add, and the one write. -/
theorem probeAndSingleAdvance : Obligations.ProbeAndSingleAdvance := fun a k s =>
  ⟨toNat_wrap32 _, phaseAfter_eq _ _ k, accAdvance_snd a k s, phaseAfter_zero _ _⟩

/-- Settles O26: ADV's equation. -/
theorem advAnswersOldPhase : Obligations.AdvAnswersOldPhase :=
  ⟨decode_acc (o := .adv) rfl, exec_adv⟩

/-- Settles O27: ADVO's equation, and the probe at offset 0. -/
theorem advoAnswersProbe : Obligations.AdvoAnswersProbe :=
  ⟨decode_acc (o := .advo) rfl, exec_advo, fun a s => by rw [exec_advo, phaseAfter_zero, exec_adv]⟩

/-- Settles O28: no word is below 0. -/
theorem isstComparesPhaseWithIncrement : Obligations.IsstComparesPhaseWithIncrement := by
  refine ⟨decode_acc (o := .isst) rfl, exec_isst, fun a s hinc => ?_⟩
  rw [exec_isst, hinc, if_neg (show ¬ (s.ph a).toNat < (0 : Word).toNat from Nat.not_lt_zero _)]
  rfl

/-- Settles O29: the equations of INC and DEC. -/
theorem incAndDecMoveOneIncrement : Obligations.IncAndDecMoveOneIncrement :=
  ⟨fun x y => and_assoc.mp ⟨decode_acc (o := .inc) rfl x y, decode_acc (o := .dec) rfl x y⟩,
    fun a s => ⟨exec_inc a s, exec_dec a s⟩⟩

/-- Settles O30: neither getter writes. -/
theorem accumulatorGetters : Obligations.AccumulatorGetters :=
  ⟨fun x y => and_assoc.mp ⟨decode_acc (o := .getph) rfl x y, decode_acc (o := .getinc) rfl x y⟩,
    fun a s => ⟨exec_getph a s, exec_getinc a s⟩⟩

/-- Settles O31: each setter replaces its own field. -/
theorem accumulatorSetters : Obligations.AccumulatorSetters :=
  ⟨fun x y => and_assoc.mp ⟨decode_acc (o := .setph) rfl x y, decode_acc (o := .setinc) rfl x y⟩,
    fun a v s => ⟨exec_setph a v s, exec_setinc a v s⟩⟩

/-- Settles O33: SETFREQ stores R62's increment, or raises PV, which leaves both accumulators. -/
theorem setfreqWritesIncrement : Obligations.SetfreqWritesIncrement := by
  refine ⟨decode_acc (o := .setfreq) rfl, fun a freq sr s hsr => ?_,
    fun a freq s => ⟨_, exec_setfreq_zero a freq s, rfl, rfl⟩⟩
  rw [exec_setfreq_of_ne a freq hsr, freqToInc_eq_ofNat]
  rfl

/-- Settles O34: SETPER stores R63's increment, or raises PV, which leaves both accumulators. -/
theorem setperWritesIncrement : Obligations.SetperWritesIncrement := by
  refine ⟨decode_acc (o := .setper) rfl, fun a period s hp => ?_,
    fun a s => ⟨_, exec_setper_zero a s, rfl, rfl⟩⟩
  rw [exec_setper_of_ne a hp, periodToInc_eq_ofNat]
  rfl

/-- Settles O36: increment 0 adds nothing, at any offset. -/
theorem zeroFrequencyIsSilent : Obligations.ZeroFrequencyIsSilent := by
  refine ⟨fun sr => freqToInc_zero, fun a k s hinc => ?_, fun a sr s hsr => ?_⟩
  · refine Prod.ext ?_ ?_
    · rw [accAdvance_fst, hinc, phaseAfter_inc_zero]
    · rw [accAdvance_snd, hinc, add_zero, State.setPh_self]
  · exact ⟨_, exec_setfreq_of_ne a 0 hsr s, (State.inc_setInc ..).trans (freqToInc_zero hsr), by simp⟩

/-- Settles O37: the probe at offset 0 is the stored phase. -/
theorem firstSampleReturnsSetPhase : Obligations.FirstSampleReturnsSetPhase :=
  ⟨fun a => by simp, fun a v s => ⟨_, _, exec_setph a v s, by simp, exec_adv a _, by simp⟩⟩

end Sys2Proof.Machine

/-! ## Proofs: the sine lookup family (41_sine_rom_lookup.md)

The sign of the lookup is read off the table; a step of the accumulator wraps exactly when it ends below the increment.
Together they say at which steps SIN crosses zero upward, and counting the steps from one wrap to the next gives their
distance. -/

namespace Sys2Proof

/-! ### The command words without a select bit (R47, R54) -/

/-- Both command words of an operation of class "gen" or "ctl": the one with A = 1 is illegal. -/
theorem decode_nonAcc {o : Op} (hc : o.cls ≠ .acc) (x y : Word) :
    decode ⟨cmdWord o false, x, y⟩ = .ok (assemble o .pa0 x y) ∧
    decode ⟨cmdWord o true, x, y⟩ = .illegal .selectNotAcc :=
  ⟨decode_cmdWord_ok x y rfl (.inr rfl), decode_cmdWord_select x y rfl hc⟩

end Sys2Proof

namespace Sys2Proof.Machine

/-! ### The sign of the lookup (R81, R82) -/

theorem romEntry_nonneg_iff {i : Nat} (hi : i < 1024) : 0 ≤ romEntry i ↔ i ≤ 512 := by
  obtain rfl | rfl | ⟨k, hk, rfl | rfl⟩ := romIndex_cases hi
  · decide
  · decide
  · have := romArch_getD_bounds hk
    rw [romEntry_firstHalf hk]
    omega
  · have := romArch_getD_bounds hk
    rw [romEntry_secondHalf]
    omega

/-- R81's index, the phase truncated to 1/1024 cycle. -/
theorem romIndex_toNat (p : Word) : (p.extractLsb' 22 10).toNat = p.toNat / 2 ^ 22 := by
  rw [BitVec.extractLsb'_toNat, Nat.shiftRight_eq_div_pow]
  omega

theorem sineLu_toInt (p : Word) : (sineLu p).toInt = romEntry (p.toNat / 2 ^ 22) := by
  rw [sineLu, rom_toInt, romIndex_toNat]

theorem sineLu_nonneg_iff (p : Word) : 0 ≤ (sineLu p).toInt ↔ p.toNat < 0x80400000 := by
  rw [sineLu_toInt, romEntry_nonneg_iff (by omega)]
  omega

theorem ampWord_toInt (m : Amp) : (ampWord m).toInt = m.toInt := by
  rw [ampWord_eq_signExtend, BitVec.toInt_signExtend_of_le (by decide)]

/-! ### SIN, once and `n` times (R83) -/

theorem exec_sin (s : State) : exec .sin s =
    .next ((s.setPh .pa0 (s.ph .pa0 + s.inc .pa0)).respond (ampWord (sineLu (s.ph .pa0)))) := by
  simp [exec, execSin]

/-- `n` SIN answer the amplitudes at p, p + d, .... -/
theorem issue_sin (n : Nat) (s : State) : ∃ t, issue n .sin s = .next t ∧
    t.responses = s.responses ++ (List.range n).map (fun j => ampWord (sineLu (phaseAt .pa0 s j))) := by
  have hacc := iterate_issued_acc (a := .pa0)
    (f := fun s => (s.setPh .pa0 (s.ph .pa0 + s.inc .pa0)).respond (ampWord (sineLu (s.ph .pa0))))
    (by simp) (by simp)
  refine ⟨_, issue_eq_iterate (by decide) exec_sin n s, ?_⟩
  rw [iterate_issued_responses (v := fun s => ampWord (sineLu (s.ph .pa0))) (fun _ => rfl)]
  exact congrArg (s.responses ++ ·) (List.map_congr_left fun j _ => congrArg (fun p => ampWord (sineLu p)) (hacc j _).1)

/-! ### A step that wraps past zero (R79, R84) -/

theorem toNat_add_of_wrap {p d : Word} (h : (p + d).toNat < d.toNat) :
    (p + d).toNat + 2 ^ 32 = p.toNat + d.toNat := by
  rw [BitVec.toNat_add] at *
  omega

theorem toNat_add_of_no_wrap {p d : Word} (h : ¬ (p + d).toNat < d.toNat) :
    (p + d).toNat = p.toNat + d.toNat := by
  rw [BitVec.toNat_add] at *
  omega

/-- R84's premise: within 511/1024 of a cycle a step that wraps ends among the entries that are not negative and began
among the negative ones, and a step that does not wrap cannot leave these. -/
theorem upwardCrossing_iff_wrap {p d : Word} (hd : d.toNat ≤ 511 * 2 ^ 22) :
    (sineLu p).toInt < 0 ∧ 0 ≤ (sineLu (p + d)).toInt ↔ (p + d).toNat < d.toNat := by
  rw [← not_le, sineLu_nonneg_iff, sineLu_nonneg_iff]
  by_cases hwrap : (p + d).toNat < d.toNat
  · have := toNat_add_of_wrap hwrap
    omega
  · have := toNat_add_of_no_wrap hwrap
    omega

/-! ### From one wrap to the next (R84) -/

section
variable {a : AccSel} {s : State} {i : Nat}

theorem phaseAt_toNat_of_no_wrap {k : Nat}
    (h : ∀ l, i < l → l ≤ i + k → ¬ (phaseAt a s l).toNat < (s.inc a).toNat) :
    (phaseAt a s (i + k)).toNat = (phaseAt a s i).toNat + k * (s.inc a).toNat := by
  induction k with
  | zero => simp
  | succ k ih =>
    have hlast := h (i + k + 1) (by omega) (by omega)
    rw [phaseAt_succ] at hlast
    rw [← add_assoc, phaseAt_succ, toNat_add_of_no_wrap hlast, ih fun l hil hlk => h l hil (by omega)]
    ring

/-- After `k` steps that do not wrap and one that does, the phase has gone `k + 1` increments less one cycle. -/
theorem phaseAt_toNat_of_first_wrap {k : Nat}
    (h : ∀ l, i < l → l < i + k + 1 → ¬ (phaseAt a s l).toNat < (s.inc a).toNat)
    (hwrap : (phaseAt a s (i + k + 1)).toNat < (s.inc a).toNat) :
    (phaseAt a s (i + k + 1)).toNat + 2 ^ 32 = (phaseAt a s i).toNat + (k + 1) * (s.inc a).toNat := by
  rw [phaseAt_succ] at *
  rw [toNat_add_of_wrap hwrap, phaseAt_toNat_of_no_wrap fun l hil hlk => h l hil (by omega)]
  ring

end

/-- A multiple of `d` that is less than `d` away from `n`, on either side. -/
theorem eq_div_or_succ_of_mul_near {n d k : Nat} (hlow : n < (k + 1) * d) (hhigh : k * d < n + d) :
    k = n / d ∨ k = n / d + 1 := by
  have hd : 0 < d := Nat.pos_of_mul_pos_left (Nat.zero_lt_of_lt hlow)
  have hle : n / d < k + 1 := (Nat.div_lt_iff_lt_mul hd).mpr hlow
  have hge : k ≤ n / d + 1 := Nat.add_div_right n hd ▸ (Nat.le_div_iff_mul_le hd).mpr hhigh.le
  omega

/-- Two successive phases below the increment are floor(2^32 / d) or one more samples apart. -/
theorem wrap_distance {a : AccSel} {s : State} {i j : Nat} (hij : i < j)
    (hi : (phaseAt a s i).toNat < (s.inc a).toNat) (hj : (phaseAt a s j).toNat < (s.inc a).toNat)
    (hbetween : ∀ l, i < l → l < j → ¬ (phaseAt a s l).toNat < (s.inc a).toNat) :
    j - i = 2 ^ 32 / (s.inc a).toNat ∨ j - i = 2 ^ 32 / (s.inc a).toNat + 1 := by
  obtain ⟨k, rfl⟩ := Nat.exists_eq_add_of_lt hij
  have hcycle := phaseAt_toNat_of_first_wrap hbetween hj
  rw [show i + k + 1 - i = k + 1 by omega]
  refine eq_div_or_succ_of_mul_near ?_ ?_
  · linarith
  · linarith

/-! ### The obligations -/

/-- Settles O45: SIN `j` looks up the phase one step after SIN `j - 1`, so it crosses upward exactly if that step
wrapped. -/
theorem upwardCrossingsAreAtWraps : Obligations.UpwardCrossingsAreAtWraps := by
  intro s n _ hd
  obtain ⟨t, ht, hresp⟩ := issue_sin n s
  refine ⟨t, _, ht, hresp, by simp, fun j hj hjn => ?_, fun i j => wrap_distance⟩
  obtain ⟨m, rfl⟩ := Nat.exists_eq_add_of_le' hj
  have hm : m < n := by omega
  simp [hjn, hm, ampWord_toInt, phaseAt_succ, upwardCrossing_iff_wrap hd]

/-- Settles O44: SIN's equation, whose response word is the sign extension. -/
theorem sinAnswersRomEntry : Obligations.SinAnswersRomEntry :=
  ⟨decode_nonAcc (o := .sin) (by decide), exec_sin⟩

end Sys2Proof.Machine

/-! ## Proofs: the pulse comparator family (42_pulse_comparator.md)

The comparison as one condition on words, then one equation per command. Over a cycle the phase only rises, so at
half-cycle width PULSE answers a block of -1.0 and then a block of +1.0; where the first block ends bounds both counts. -/

namespace Sys2Proof.Machine

/-! ### The comparison and its response word (R86, R87) -/

/-- The response word of a pulse sample at phase `p`: +1.0 above the width, else -1.0 (R87). -/
def pulseWord (width p : Word) : Word := if width < p then 0x00004000 else 0xFFFFC000

theorem pulseCmp_toInt (width p : Word) : (pulseCmp width p).toInt = if width < p then 16384 else -16384 := by
  rw [pulseCmp, apply_ite BitVec.toInt]
  rfl

theorem pulseCmp_high_iff (width p : Word) : (pulseCmp width p).toInt = 16384 ↔ width < p := by
  rw [pulseCmp_toInt]
  by_cases h : width < p <;> simp [h]

theorem pulseCmp_low_iff (width p : Word) : (pulseCmp width p).toInt = -16384 ↔ p ≤ width := by
  rw [pulseCmp_toInt, ← BitVec.not_lt]
  by_cases h : width < p <;> simp [h]

theorem ampWord_pulseCmp (width p : Word) : ampWord (pulseCmp width p) = pulseWord width p := by
  rw [pulseCmp, apply_ite ampWord]
  rfl

/-- Settles O48: the phases above the width and those up to it are two intervals. -/
theorem pulseDuty : Obligations.PulseDuty := by
  intro width
  have hhigh (p : Fin (2 ^ 32)) : (pulseCmp width (.ofFin p)).toInt = 16384 ↔ width.toFin < p :=
    pulseCmp_high_iff width _
  have hlow (p : Fin (2 ^ 32)) : (pulseCmp width (.ofFin p)).toInt = -16384 ↔ p ≤ width.toFin :=
    pulseCmp_low_iff width _
  simp_rw [hhigh, hlow, Finset.filter_lt_eq_Ioi, Finset.filter_ge_eq_Iic]
  exact ⟨Fin.card_Ioi _, Fin.card_Iic _⟩

/-! ### One equation per command (R88 to R91) -/

theorem exec_pulseo (k : Int) (s : State) : exec (.pulseo k) s = .next ((s.setPh .pa0 (s.ph .pa0 + s.inc .pa0)).respond
    (pulseWord s.regs.width (phaseAfter (s.ph .pa0) (s.inc .pa0) k))) := by
  simp [exec, execPulseo, ampWord_pulseCmp]

theorem exec_pulse (s : State) : exec .pulse s = .next ((s.setPh .pa0 (s.ph .pa0 + s.inc .pa0)).respond
    (pulseWord s.regs.width (s.ph .pa0))) := by
  simp [exec, execPulse, ampWord_pulseCmp]

theorem exec_getw (s : State) : exec .getw s = .next (s.respond s.regs.width) := rfl

theorem exec_setw (v : Word) (s : State) : exec (.setw v) s = .next ((s.setWidth v).respond 0) := rfl

/-! ### PULSE issued `n` times -/

/-- What a command keeps of the registers, it keeps when issued `n` times. -/
theorem iterate_issued_keeps {α : Type} {f : State → State} {g : Regs → α} (hg : ∀ s, g (f s).regs = g s.regs)
    (n : Nat) (s : State) : g ((issued f)^[n] s).regs = g s.regs := by
  induction n with
  | zero => rfl
  | succ n ih =>
    rw [Function.iterate_succ_apply']
    exact (hg _).trans ih

/-- `n` PULSE compare the phases p, p + d, ... with the one width. -/
theorem issue_pulse (n : Nat) (s : State) : ∃ t, issue n .pulse s = .next t ∧
    t.responses = s.responses ++ (List.range n).map (fun j => pulseWord s.regs.width (phaseAt .pa0 s j)) := by
  refine ⟨_, issue_eq_iterate (by decide) exec_pulse n s, ?_⟩
  rw [iterate_issued_responses (v := fun s => pulseWord s.regs.width (s.ph .pa0)) (fun _ => rfl)]
  refine congrArg (s.responses ++ ·) (List.map_congr_left fun j _ => congrArg₂ pulseWord ?_ ?_)
  · exact iterate_issued_keeps (g := Regs.width) (by simp) j _
  · exact (iterate_issued_acc (by simp) (by simp) j _).1

/-! ### One cycle at half-cycle width (R93) -/

/-- A list that answers `x` below a threshold and `y` from it on. -/
theorem map_range_ite_threshold {α : Type} {P : Nat → Prop} [DecidablePred P] {m n : Nat} (hmn : m ≤ n) (x y : α)
    (hP : ∀ j < n, P j ↔ m ≤ j) :
    (List.range n).map (fun j => if P j then y else x) = List.replicate m x ++ List.replicate (n - m) y := by
  refine List.ext_getElem (by simp [hmn]) fun j hj _ => ?_
  have hjn : j < n := by simpa using hj
  by_cases hjm : m ≤ j
  · simp [hP j hjn, hjm, List.getElem_append_right]
  · simp [hP j hjn, hjm, List.getElem_append_left, not_le.mp hjm]

theorem count_two_blocks {α : Type} [DecidableEq α] {x y : α} (hxy : x ≠ y) (m k : Nat) :
    (List.replicate m x ++ List.replicate k y).count x = m ∧
    (List.replicate m x ++ List.replicate k y).count y = k := by
  simp [List.count_replicate, hxy, hxy.symm]

/-- Where the low block of a cycle ends: `m` samples are at 2^31 or below, sample `m` is above, and twice `m` is within 2
of the cycle's length. -/
theorem exists_half_cycle {p d n : Nat} (hp : p < d) (hd : d < 2 ^ 31) (hlast : p + n * d < 2 ^ 32 + d)
    (hend : 2 ^ 32 ≤ p + n * d) :
    ∃ m ≤ n, (∀ j, 2 ^ 31 < p + j * d ↔ m ≤ j) ∧ 2 * m ≤ n + 2 ∧ n ≤ 2 * m + 1 := by
  have hd0 : 0 < d := by omega
  have hiff (j : Nat) : 2 ^ 31 < p + j * d ↔ (2 ^ 31 - p) / d + 1 ≤ j := by
    rw [Nat.succ_le_iff, Nat.div_lt_iff_lt_mul hd0]
    omega
  generalize (2 ^ 31 - p) / d = q at hiff
  have hlow : p + q * d ≤ 2 ^ 31 := not_lt.mp fun h => by have := (hiff q).mp h; omega
  have hhigh : 2 ^ 31 < p + (q + 1) * d := (hiff _).mpr le_rfl
  have hle : 2 * q ≤ n := le_of_mul_le_mul_right (by linarith) hd0
  have hge : n < 2 * q + 4 := lt_of_mul_lt_mul_right (a := d) (by linarith) (Nat.zero_le d)
  exact ⟨q + 1, (hiff n).mp (by omega), hiff, by omega, by omega⟩

/-- Settles O49: a cycle is a block of -1.0 and a block of +1.0, the first within 1 of half the calls. -/
theorem pulseSymmetry : Obligations.PulseSymmetry := by
  intro s n hwidth _ hd hn hfirst hlast hbetween
  obtain ⟨t, ht, hresp⟩ := issue_pulse n s
  have hphase : ∀ j < n, (phaseAt .pa0 s j).toNat = (s.ph .pa0).toNat + j * (s.inc .pa0).toNat := fun j hj => by
    simpa using phaseAt_toNat_of_no_wrap (i := 0) (k := j) fun l h0 hl => hbetween l h0 (by omega)
  have hcycle : (phaseAt .pa0 s n).toNat + 2 ^ 32 = (s.ph .pa0).toNat + n * (s.inc .pa0).toNat := by
    obtain ⟨k, rfl⟩ := Nat.exists_eq_add_of_le' hn
    simpa using phaseAt_toNat_of_first_wrap (i := 0) (k := k) (by simpa using hbetween) (by simpa using hlast)
  obtain ⟨m, hmn, hthreshold, hle, hge⟩ := exists_half_cycle hfirst hd (n := n) (by omega) (by omega)
  have hblocks : (List.range n).map (fun j => pulseWord s.regs.width (phaseAt .pa0 s j)) =
      List.replicate m 0xFFFFC000 ++ List.replicate (n - m) 0x00004000 :=
    map_range_ite_threshold hmn _ _ fun j hj => by
      rw [hwidth, BitVec.lt_def, hphase j hj]
      exact hthreshold j
  rw [hblocks] at hresp
  obtain ⟨hlow, hhigh⟩ :=
    count_two_blocks (show (0xFFFFC000 : Word) ≠ 0x00004000 by decide) m (n - m)
  refine ⟨t, _, ht, hresp, by simp [hmn], ?_, ?_⟩
  · rw [hhigh, abs_le]
    omega
  · rw [hlow, abs_le]
    omega

/-! ### The obligations of tier 1 -/

/-- Settles O46: the equations of PULSE and PULSEO, and the probe at offset 0. -/
theorem pulseComparesWithWidth : Obligations.PulseComparesWithWidth := by
  refine ⟨fun x y => ?_, exec_pulse, fun k s => ?_, fun s => ?_⟩
  · obtain ⟨hpulse, hpulse'⟩ := decode_nonAcc (o := .pulse) (by decide) x y
    obtain ⟨hpulseo, hpulseo'⟩ := decode_nonAcc (o := .pulseo) (by decide) x y
    exact ⟨hpulse, hpulseo, hpulse', hpulseo'⟩
  · rw [exec_pulseo, phaseAfter_eq]
    rfl
  · rw [exec_pulseo, phaseAfter_zero, exec_pulse]

/-- Settles O47: GETW's and SETW's equations. -/
theorem widthIsReadAndWritten : Obligations.WidthIsReadAndWritten := by
  refine ⟨fun x y => ?_, exec_getw, exec_setw⟩
  obtain ⟨hgetw, hgetw'⟩ := decode_nonAcc (o := .getw) (by decide) x y
  obtain ⟨hsetw, hsetw'⟩ := decode_nonAcc (o := .setw) (by decide) x y
  exact ⟨hgetw, hsetw, hgetw', hsetw'⟩

end Sys2Proof.Machine

/-! ## Proofs: the FM modulator family (43_fm_modulator_engine.md)

First the perturbation; then one evaluation as the amplitude it gives and the state it leaves, whichever accumulator is
stepped first; then one equation per command. At GAIN = 0 the perturbation is 0, and FM and SIN run in lockstep. -/

namespace Sys2Proof.Machine

/-! ### The perturbation (R94) -/

theorem toNat_fmPert (m : Amp) (gain : Word) :
    ((fmPert m gain).toNat : Int) = m.toInt * gain.toNat / 2 ^ 14 % 2 ^ 32 := toNat_wrap32 _

theorem fmPert_gain_zero (m : Amp) : fmPert m 0 = 0 := by simp [fmPert, floorShift, wrap32]

/-- The product of an amplitude of at most 1.0 with the greatest gain bounds every other. -/
theorem abs_mul_gain_le {m : Amp} (hm : |m.toInt| ≤ 16384) (gain : Word) :
    |m.toInt * (gain.toNat : Int)| ≤ 2 ^ 14 * (2 ^ 32 - 1) := by
  have hgain : (gain.toNat : Int) ≤ 2 ^ 32 - 1 := by omega
  rw [abs_mul, Nat.abs_cast]
  exact mul_le_mul hm hgain (Int.natCast_nonneg _) (by decide)

/-- Settles O50: the model's integer division is the rational floor, and 2^14 * (2^32 - 1) is below 2^47. -/
theorem perturbationIsFlooredProduct : Obligations.PerturbationIsFlooredProduct := by
  refine fun m gain => ⟨?_, fun hm => ⟨abs_mul_gain_le hm gain, ?_⟩⟩
  · rw [toNat_fmPert]
    exact congrArg (· % 2 ^ 32) (Rat.floor_intCast_div_natCast _ (2 ^ 14)).symm
  · exact (abs_mul_gain_le hm gain).trans_lt (by decide)

/-! ### One evaluation (R95, R96, R102) -/

/-- The amplitude of an evaluation at offset `k`: the lookup of the carrier's probe plus the perturbation that the
modulator's probe gives. -/
def fmSample (k : Int) (s : State) : Amp :=
  sineLu (phaseAfter (s.ph .pa0) (s.inc .pa0) k +
    fmPert (sineLu (phaseAfter (s.ph .pa1) (s.inc .pa1) k)) s.regs.gain)

/-- Both accumulators one increment on. -/
def advanceBoth (s : State) : State :=
  (s.setPh .pa1 (s.ph .pa1 + s.inc .pa1)).setPh .pa0 (s.ph .pa0 + s.inc .pa0)

theorem fmEval_eq (k : Int) (s : State) : fmEval k s = (fmSample k s, advanceBoth s) := by
  simp [fmEval, fmSample, advanceBoth]

theorem fmSample_gain_zero {s : State} (hgain : s.regs.gain = 0) (k : Int) :
    fmSample k s = sineLu (phaseAfter (s.ph .pa0) (s.inc .pa0) k) := by
  rw [fmSample, hgain, fmPert_gain_zero, add_zero]

theorem setPh_pa0_setPh_pa1 (v w : Word) (s : State) :
    (s.setPh .pa0 v).setPh .pa1 w = (s.setPh .pa1 w).setPh .pa0 v := rfl

/-- Settles O54: neither accumulator's step changes what the other's reads, and the two writes commute. -/
theorem fmOrderIsUnobservable : Obligations.FmOrderIsUnobservable := by
  intro k s
  simp only [fmEval_eq, fmSample, advanceBoth, accAdvance_fst, accAdvance_snd, State.ph_pa1_setPh_pa0, State.inc_setPh,
    setPh_pa0_setPh_pa1]

/-! ### One equation per command (R97 to R100) -/

theorem exec_fmo (k : Int) (s : State) :
    exec (.fmo k) s = .next ((advanceBoth s).respond (ampWord (fmSample k s))) := by
  rw [exec, execFmo, fmEval_eq]

theorem exec_fmo_zero (s : State) : exec (.fmo 0) s = exec .fm s := rfl

theorem exec_fm (s : State) : exec .fm s = .next ((advanceBoth s).respond (ampWord (fmSample 0 s))) := exec_fmo 0 s

theorem exec_getg (s : State) : exec .getg s = .next (s.respond s.regs.gain) := rfl

theorem exec_setg (v : Word) (s : State) : exec (.setg v) s = .next ((s.setGain v).respond 0) := rfl

/-! ### FM and SIN at GAIN = 0 (R101) -/

/-- What FM does to the state. -/
def fmEffect (s : State) : State := (advanceBoth s).respond (ampWord (fmSample 0 s))

/-- What SIN does to the state. -/
def sinEffect (s : State) : State := (s.setPh .pa0 (s.ph .pa0 + s.inc .pa0)).respond (ampWord (sineLu (s.ph .pa0)))

/-- The run of FM and the run of SIN agree so far, and the gain of the first is still 0. -/
structure AlikeAtZeroGain (s u : State) : Prop where
  gain : s.regs.gain = 0
  pa0 : u.regs.pa0 = s.regs.pa0
  responses : u.responses = s.responses

/-- One FM and one SIN look up the same phase and move PA0 alike. -/
theorem alikeAtZeroGain_issued {s u : State} (h : AlikeAtZeroGain s u) :
    AlikeAtZeroGain (issued fmEffect s) (issued sinEffect u) := by
  have hph : u.ph .pa0 = s.ph .pa0 := congrArg Acc.ph h.pa0
  have hinc : u.inc .pa0 = s.inc .pa0 := congrArg Acc.inc h.pa0
  refine ⟨h.gain, ?_, ?_⟩
  · change (⟨u.ph .pa0 + u.inc .pa0, u.inc .pa0⟩ : Acc) = ⟨s.ph .pa0 + s.inc .pa0, s.inc .pa0⟩
    rw [hph, hinc]
  · change u.responses ++ [ampWord (sineLu (u.ph .pa0))] = s.responses ++ [ampWord (fmSample 0 s)]
    rw [h.responses, hph, fmSample_gain_zero h.gain, phaseAfter_zero]

theorem alikeAtZeroGain_iterate {s u : State} (h : AlikeAtZeroGain s u) (n : Nat) :
    AlikeAtZeroGain ((issued fmEffect)^[n] s) ((issued sinEffect)^[n] u) := by
  induction n with
  | zero => exact h
  | succ n ih =>
    rw [Function.iterate_succ_apply', Function.iterate_succ_apply']
    exact alikeAtZeroGain_issued ih

/-- Settles O53: the lockstep of the two runs; the modulator runs on under FM, and SIN never writes it. -/
theorem fmAtZeroGainIsSine : Obligations.FmAtZeroGainIsSine := by
  refine ⟨fmPert_gain_zero, fun s u n hgain hpa0 hresp => ?_, fun k s hgain => ?_⟩
  · have halike : AlikeAtZeroGain { s with pending := List.replicate n (.command (encode .fm)) }
        { u with pending := List.replicate n (.command (encode .sin)) } := ⟨hgain, hpa0, hresp⟩
    obtain ⟨-, hpa0, hresp⟩ := alikeAtZeroGain_iterate halike n
    refine ⟨_, _, issue_eq_iterate (by decide) exec_fm n s, issue_eq_iterate (by decide) exec_sin n u,
      hresp.symm, hpa0.symm, ?_, ?_⟩
    · exact (iterate_issued_acc (f := fmEffect) (fun _ => rfl) (fun _ => rfl) n _).1
    · exact iterate_issued_keeps (f := sinEffect) (g := Regs.pa1) (fun _ => rfl) n _
  · refine ⟨_, _, exec_fmo k s, exec_sin s, ?_, rfl⟩
    rw [fmSample_gain_zero hgain]
    rfl

/-! ### The obligations of tier 1 -/

/-- Settles O51: the equations of FM and FMO, each probe as a wrapping multiply and add. -/
theorem fmAnswersPerturbedCarrier : Obligations.FmAnswersPerturbedCarrier := by
  refine ⟨fun x y => ?_, fun k s => ?_, fun s => ?_, exec_fmo_zero⟩
  · obtain ⟨hfm, hfm'⟩ := decode_nonAcc (o := .fm) (by decide) x y
    obtain ⟨hfmo, hfmo'⟩ := decode_nonAcc (o := .fmo) (by decide) x y
    exact ⟨hfm, hfmo, hfm', hfmo'⟩
  · rw [exec_fmo, fmSample, phaseAfter_eq, phaseAfter_eq]
    rfl
  · rw [exec_fm, fmSample, phaseAfter_zero, phaseAfter_zero]
    rfl

/-- Settles O52: GETG's and SETG's equations. -/
theorem gainIsReadAndWritten : Obligations.GainIsReadAndWritten := by
  refine ⟨fun x y => ?_, exec_getg, exec_setg⟩
  obtain ⟨hgetg, hgetg'⟩ := decode_nonAcc (o := .getg) (by decide) x y
  obtain ⟨hsetg, hsetg'⟩ := decode_nonAcc (o := .setg) (by decide) x y
  exact ⟨hgetg, hsetg, hgetg', hsetg'⟩

end Sys2Proof.Machine

/-! ## Proofs: the status and control family (44_status_and_control.md)

The STATUS word as the concatenation of its bits, then one equation per command. -/

namespace Sys2Proof.Machine

/-- STATUS read from its top: thirty zeros, PV, ILL (R21). -/
theorem Regs.statusWord_eq_append (r : Regs) :
    r.statusWord = (0 : BitVec 30) ++ BitVec.ofBool r.pv ++ BitVec.ofBool r.ill := by
  unfold Regs.statusWord
  cases r.pv <;> cases r.ill <;> rfl

/-! ### One equation per command (R103 to R105) -/

theorem exec_nop (s : State) : exec .nop s = .next (s.respond 0) := rfl

theorem exec_getst (s : State) : exec .getst s = .next (s.respond s.regs.statusWord) := rfl

theorem exec_clrst (s : State) : exec .clrst s = .next (s.clearStatus.respond 0) := rfl

/-- Settles O55: the three equations, GETST's word spelt out in bits; clearing the flags touches the registers alone. -/
theorem statusAndControlCommands : Obligations.StatusAndControlCommands := by
  refine ⟨fun x y => ?_, exec_nop, fun s => ?_, exec_clrst⟩
  · obtain ⟨hnop, hnop'⟩ := decode_nonAcc (o := .nop) (by decide) x y
    obtain ⟨hgetst, hgetst'⟩ := decode_nonAcc (o := .getst) (by decide) x y
    obtain ⟨hclrst, hclrst'⟩ := decode_nonAcc (o := .clrst) (by decide) x y
    exact ⟨hnop, hgetst, hclrst, hnop', hgetst', hclrst'⟩
  · rw [exec_getst, Regs.statusWord_eq_append]
    rfl

end Sys2Proof.Machine

/-! ## Proofs: the exceptions family (60_exceptions.md)

The three causes of ILL each break a condition of R47; a step on a refused word is its own equation. -/

namespace Sys2Proof

theorem Op.code_injective : Function.Injective Op.code := fun o p h => by
  simpa only [Op.ofCode_code, Option.some.injEq] using congrArg Op.ofCode h

/-- The causes of ILL as R107 lists them. The third names the operation by its class, so it needs that R51 gives an
opcode to one operation only. -/
theorem not_legalWord_of_cause {w : Word}
    (h : (∀ o : Op, cmdOp w ≠ o.code) ∨ cmdHigh w ≠ 0 ∨
      (cmdA w = true ∧ ∃ o : Op, cmdOp w = o.code ∧ (o.cls = .gen ∨ o.cls = .ctl))) : ¬ LegalWord w := by
  rintro ⟨hhigh, o, -, hop, hsel⟩
  obtain hno | hbits | ⟨hA, p, hp, hcls⟩ := h
  · exact hno o hop
  · exact hbits hhigh
  · obtain rfl : o = p := Op.code_injective (hop.symm.trans hp)
    have hacc : o.cls = .acc := by simpa [hA] using hsel
    simp [hacc] at hcls

namespace Machine

/-- A word that decoding refuses raises ILL (R107); the step then counts the command and moves the host's list on. -/
theorem step_of_illegal {s : State} {c : Command} {rest : List HostInput} {why : Illegal}
    (hp : s.pending = .command c :: rest) (hd : decode c = .illegal why) :
    step s = .next (s.raise .ill).countCommand.dropInput := by
  rw [step_of_command hp, transact_of_illegal hd, onNext_next]

/-- Settles O4: each cause makes the word illegal, so decoding refuses it and the step raises ILL. -/
theorem illegalCommandSetsIll : Obligations.IllegalCommandSetsIll := by
  intro s c rest hp hcause
  obtain ⟨why, hd⟩ := not_legalWord_iff_refused.mp (not_legalWord_of_cause hcause)
  exact ⟨_, step_of_illegal hp hd, rfl, rfl⟩

end Machine

end Sys2Proof

/-! ## Proofs: the reset and hazards family (70_reset_and_hazards.md)

The step at a reset pulse is its own equation; the values of R121 are stated once, of the register file that both the
pulse and the state after reset hold. -/

namespace Sys2Proof.Machine

/-- A reset pulse resets the registers, whatever they held, and the host's list moves on. -/
theorem step_of_reset {s : State} {rest : List HostInput} (hp : s.pending = .reset :: rest) :
    step s = .next s.resetRegs.dropInput := by
  simp only [step, hp]

/-- The reset values of R121; STATUS reads 0 because both of its flags are cleared. -/
theorem Regs.reset_values :
    Regs.reset.pa0 = ⟨0x00000000, 0x00000000⟩ ∧ Regs.reset.pa1 = ⟨0x00000000, 0x00000000⟩ ∧
    Regs.reset.width = 0x80000000 ∧ Regs.reset.gain = 0x00000000 ∧ Regs.reset.statusWord = 0x00000000 :=
  ⟨rfl, rfl, rfl, rfl, rfl⟩

/-- Settles O10: the pulse leaves `Regs.reset` from any state, and `State.reset` holds the same register file. -/
theorem resetWritesEveryRegister : Obligations.ResetWritesEveryRegister :=
  ⟨fun s _ hp => ⟨s.resetRegs.dropInput, step_of_reset hp, Regs.reset_values⟩, Regs.reset_values⟩

end Sys2Proof.Machine

/-! ## Proofs: commands and words, both ways (30_encoding.md)

The operation, the accumulator and the operand words of a command are the parts it is assembled from; a command word is
its three fields, so it is masked and compared field by field. -/

namespace Sys2Proof

/-! ### A command and its parts (R48, R49) -/

@[simp] theorem op_assemble (o : Op) (a : AccSel) (x y : Word) : (assemble o a x y).op = o := by cases o <;> rfl

theorem select_assemble (o : Op) (a : AccSel) (x y : Word) :
    (assemble o a x y).select = if o.cls = .acc then a else .pa0 := by
  cases o <;> rfl

/-- Only class "acc" commands have an accumulator operand. -/
theorem cls_acc_or_select_pa0 (i : Instr) : i.op.cls = .acc ∨ i.select = .pa0 := by
  cases i <;> simp [Instr.op, Op.cls, Instr.select]

@[simp] theorem AccSel.toBit_ofBit (b : Bool) : (AccSel.ofBit b).toBit = b := by cases b <;> rfl

theorem isS32_sext32 (v : Word) : IsS32 (sext32 v) := ⟨BitVec.le_toInt v, BitVec.toInt_lt⟩

theorem sext32_ofInt {k : Int} (hk : IsS32 k) : sext32 (BitVec.ofInt 32 k) = k :=
  BitVec.toInt_ofInt_eq_self (by decide) hk.1 hk.2

theorem wellFormed_assemble (o : Op) (a : AccSel) (x y : Word) : WellFormed (assemble o a x y) := by
  cases o with
  | advo => exact decide_eq_true (isS32_sext32 x)
  | pulseo => exact decide_eq_true (isS32_sext32 x)
  | fmo => exact decide_eq_true (isS32_sext32 x)
  | _ => rfl

theorem assemble_parts {i : Instr} (hi : WellFormed i) : assemble i.op i.select i.opa i.opb = i := by
  cases i with
  | advo a k => exact congrArg (Instr.advo a) (sext32_ofInt (of_decide_eq_true hi))
  | pulseo k => exact congrArg Instr.pulseo (sext32_ofInt (of_decide_eq_true hi))
  | fmo k => exact congrArg Instr.fmo (sext32_ofInt (of_decide_eq_true hi))
  | _ => rfl

/-- Settles O1: the encoding's word is legal, its select bit being 0 outside class "acc", and the command is assembled
again from its parts. -/
theorem decodeEncodeRoundTrip : Obligations.DecodeEncodeRoundTrip := by
  intro i hi
  have hlegal : i.op.cls = .acc ∨ i.select.toBit = false :=
    (cls_acc_or_select_pa0 i).imp_right fun h => congrArg AccSel.toBit h
  rw [encode, decode_cmdWord_ok _ _ rfl hlegal, AccSel.ofBit_toBit, assemble_parts hi]

/-! ### A command word and its fields (R48) -/

/-- The three fields cover the word: bits 0 to 7, bit 8, and from bit 9 on. -/
theorem word_ext_fields {w w' : Word} :
    w = w' ↔ cmdHigh w = cmdHigh w' ∧ cmdOp w = cmdOp w' ∧ cmdA w = cmdA w' := by
  refine ⟨fun h => h ▸ ⟨rfl, rfl, rfl⟩, fun ⟨hhigh, hop, hA⟩ => BitVec.eq_of_getLsbD_eq fun j hj => ?_⟩
  have hopbit := congrArg (BitVec.getLsbD · j) hop
  have hhighbit := congrArg (BitVec.getLsbD · (j - 9)) hhigh
  simp only [cmdOp, cmdHigh, BitVec.getLsbD_extractLsb'] at hopbit hhighbit
  rcases lt_trichotomy j 8 with hlow | rfl | hup
  · simpa [hlow] using hopbit
  · exact hA
  · simpa [show j - 9 < 23 by omega, show 9 + (j - 9) = j by omega] using hhighbit

theorem eq_cmdWord_iff {w : Word} {o : Op} {b : Bool} :
    w = cmdWord o b ↔ cmdHigh w = 0 ∧ cmdOp w = o.code ∧ cmdA w = b := by
  obtain ⟨hhigh, hop, hA⟩ := Laws.EncodingShape.cmdWord_fields o b
  rw [word_ext_fields, hhigh, hop, hA]

/-- Settles O2: the word that decoded is the one its own opcode and select bit make. -/
theorem decodedCommandReencodes : Obligations.DecodedCommandReencodes := by
  intro c i hd
  obtain ⟨hhigh, o, hop, hsel, rfl⟩ := decode_eq_ok_iff.mp hd
  have hwf := wellFormed_assemble o (AccSel.ofBit (cmdA c.cmd)) c.opa c.opb
  refine ⟨hwf, ?_, decodeEncodeRoundTrip _ hwf⟩
  rw [encode, op_assemble, select_assemble, eq_comm, eq_cmdWord_iff]
  refine ⟨hhigh, hop, ?_⟩
  split
  case isTrue => exact (AccSel.toBit_ofBit _).symm
  case isFalse hc => exact hsel.resolve_right hc

/-! ### Mask and match (R51) -/

theorem mask_fields (o : Op) : cmdHigh o.mask = BitVec.allOnes 23 ∧ cmdOp o.mask = BitVec.allOnes 8 ∧
    cmdA o.mask = decide (o.cls ≠ .acc) := by
  cases o <;> decide

theorem and_fields (w m : Word) : cmdHigh (w &&& m) = cmdHigh w &&& cmdHigh m ∧
    cmdOp (w &&& m) = cmdOp w &&& cmdOp m ∧ cmdA (w &&& m) = (cmdA w && cmdA m) :=
  ⟨BitVec.extractLsb'_and, BitVec.extractLsb'_and, BitVec.getLsbD_and⟩

theorem selects_iff {o : Op} {w : Word} :
    o.selects w ↔ cmdHigh w = 0 ∧ cmdOp w = o.code ∧ (cmdA w = false ∨ o.cls = .acc) := by
  obtain ⟨hhigh, hop, hA⟩ := and_fields w o.mask
  obtain ⟨hhigh', hop', hA'⟩ := mask_fields o
  rw [Op.selects, Op.matchWord, eq_cmdWord_iff, hhigh, hop, hA, hhigh', hop', hA', BitVec.and_allOnes,
    BitVec.and_allOnes]
  simp [imp_iff_not_or]

/-- Settles O5: the mask tests the fields as the decoder does. -/
theorem opcodeRowSelectsItsOperation : Obligations.OpcodeRowSelectsItsOperation := by
  intro c o
  rw [selects_iff]
  constructor
  · rintro ⟨hhigh, hop, hsel⟩
    exact ⟨_, decode_eq_ok_iff.mpr ⟨hhigh, o, hop, hsel, rfl⟩, op_assemble ..⟩
  · rintro ⟨i, hd, rfl⟩
    obtain ⟨hhigh, p, hop, hsel, rfl⟩ := decode_eq_ok_iff.mp hd
    rw [op_assemble]
    exact ⟨hhigh, hop, hsel⟩

/-- Settles O6: ten closed words, each decoded. -/
theorem specWordsDecodeAsWritten : Obligations.SpecWordsDecodeAsWritten := by
  unfold Obligations.SpecWordsDecodeAsWritten
  decide

end Sys2Proof

/-! ## Proofs: the commands on R18's registers (10_state.md, 20_memory.md, 30_encoding.md R50)

The registers as one valuation of their names. What a command answers and what it leaves are functions of it, tied to
`exec` by one lemma; the columns of R18, idempotence and commutation are then facts about these functions. -/

namespace Sys2Proof.Machine

open Function (update update_self update_of_ne update_idem)

/-- A value for each register of R18. -/
abbrev Valuation := RegName → Word

/-! ### Writing a register updates the valuation (R18, R19) -/

/-- To read as `ρ` is to agree with it on each of the seven registers. -/
theorem Regs.read_eq {r : Regs} {ρ : Valuation} (hph0 : r.pa0.ph = ρ (.ph .pa0)) (hinc0 : r.pa0.inc = ρ (.inc .pa0))
    (hph1 : r.pa1.ph = ρ (.ph .pa1)) (hinc1 : r.pa1.inc = ρ (.inc .pa1)) (hwidth : r.width = ρ .width)
    (hgain : r.gain = ρ .gain) (hstatus : r.statusWord = ρ .status) : r.read = ρ := by
  funext n
  rcases n with (_ | _) | (_ | _) | _ | _ | _ <;> assumption

theorem statusWord_inj {r r' : Regs} : r.statusWord = r'.statusWord ↔ r.ill = r'.ill ∧ r.pv = r'.pv := by
  unfold Regs.statusWord
  cases r.ill <;> cases r.pv <;> cases r'.ill <;> cases r'.pv <;> decide

/-- The seven registers determine the register file. -/
theorem Regs.read_injective : Function.Injective Regs.read := by
  intro r r' h
  obtain ⟨hill, hpv⟩ := statusWord_inj.mp (congrFun h .status)
  obtain ⟨⟨_, _⟩, ⟨_, _⟩, _, _, _, _⟩ := r
  obtain ⟨⟨_, _⟩, ⟨_, _⟩, _, _, _, _⟩ := r'
  simp only [Regs.mk.injEq, Acc.mk.injEq]
  exact ⟨⟨congrFun h (.ph .pa0), congrFun h (.inc .pa0)⟩, ⟨congrFun h (.ph .pa1), congrFun h (.inc .pa1)⟩,
    congrFun h .width, congrFun h .gain, hill, hpv⟩

@[simp] theorem Regs.read_ph (a : AccSel) (s : State) : s.regs.read (.ph a) = s.ph a := by cases a <;> rfl

@[simp] theorem Regs.read_inc (a : AccSel) (s : State) : s.regs.read (.inc a) = s.inc a := by cases a <;> rfl

theorem read_setPh (a : AccSel) (v : Word) (s : State) :
    (s.setPh a v).regs.read = update s.regs.read (.ph a) v := by
  cases a <;> exact Regs.read_eq rfl rfl rfl rfl rfl rfl rfl

theorem read_setInc (a : AccSel) (v : Word) (s : State) :
    (s.setInc a v).regs.read = update s.regs.read (.inc a) v := by
  cases a <;> exact Regs.read_eq rfl rfl rfl rfl rfl rfl rfl

theorem read_setWidth (v : Word) (s : State) : (s.setWidth v).regs.read = update s.regs.read .width v :=
  Regs.read_eq rfl rfl rfl rfl rfl rfl rfl

theorem read_setGain (v : Word) (s : State) : (s.setGain v).regs.read = update s.regs.read .gain v :=
  Regs.read_eq rfl rfl rfl rfl rfl rfl rfl

theorem read_clearStatus (s : State) : s.clearStatus.regs.read = update s.regs.read .status 0 :=
  Regs.read_eq rfl rfl rfl rfl rfl rfl rfl

theorem statusWord_setFlag_pv (r : Regs) : (r.setFlag .pv).statusWord = r.statusWord ||| 2 := by
  rw [Regs.statusWord_eq_append, Regs.statusWord_eq_append, Regs.setFlag_pv_pv, Regs.setFlag_pv_ill]
  cases r.ill <;> cases r.pv <;> decide

theorem read_raise_pv (s : State) :
    (s.raise .pv).regs.read = update s.regs.read .status (s.regs.read .status ||| 2) :=
  Regs.read_eq rfl rfl rfl rfl rfl rfl (statusWord_setFlag_pv s.regs)

/-! ### What a command leaves and answers, on the valuation -/

/-- One increment forward (R58). -/
def stepAcc (a : AccSel) (ρ : Valuation) : Valuation := update ρ (.ph a) (ρ (.ph a) + ρ (.inc a))

/-- The sticky bit of a precondition violation (R108). -/
def violated (ρ : Valuation) : Valuation := update ρ .status (ρ .status ||| 2)

/-- SETFREQ and SETPER: PV where the divisor `x` is 0, else `v` to the increment (R75, R76). -/
def setRate (a : AccSel) (x v : Word) (ρ : Valuation) : Valuation :=
  if x = 0 then violated ρ else update ρ (.inc a) v

/-- The registers after a command. -/
def instrLeaves : Instr → Valuation → Valuation
  | .adv a, ρ | .advo a _, ρ | .inc a, ρ => stepAcc a ρ
  | .dec a, ρ => update ρ (.ph a) (ρ (.ph a) - ρ (.inc a))
  | .setph a v, ρ => update ρ (.ph a) v
  | .setinc a v, ρ => update ρ (.inc a) v
  | .setfreq a freq sr, ρ => setRate a sr (freqToInc freq sr) ρ
  | .setper a period, ρ => setRate a period (periodToInc period) ρ
  | .sin, ρ | .pulse, ρ | .pulseo _, ρ => stepAcc .pa0 ρ
  | .fm, ρ | .fmo _, ρ => stepAcc .pa0 (stepAcc .pa1 ρ)
  | .setw v, ρ => update ρ .width v
  | .setg v, ρ => update ρ .gain v
  | .clrst, ρ => update ρ .status 0
  | .nop, ρ | .isst _, ρ | .getph _, ρ | .getinc _, ρ | .getw, ρ | .getg, ρ | .getst, ρ => ρ

/-- The phase `k` samples on (R57). -/
def probe (a : AccSel) (k : Int) (ρ : Valuation) : Word := phaseAfter (ρ (.ph a)) (ρ (.inc a)) k

/-- The amplitude of an FM evaluation (R95). -/
def fmAmp (k : Int) (ρ : Valuation) : Amp :=
  sineLu (probe .pa0 k ρ + fmPert (sineLu (probe .pa1 k ρ)) (ρ .gain))

/-- The response word of a command. -/
def instrAnswer : Instr → Valuation → Word
  | .adv a, ρ | .getph a, ρ => ρ (.ph a)
  | .advo a k, ρ => probe a k ρ
  | .isst a, ρ => if (ρ (.ph a)).toNat < (ρ (.inc a)).toNat then 1 else 0
  | .getinc a, ρ => ρ (.inc a)
  | .sin, ρ => ampWord (sineLu (ρ (.ph .pa0)))
  | .pulse, ρ => ampWord (pulseCmp (ρ .width) (ρ (.ph .pa0)))
  | .pulseo k, ρ => ampWord (pulseCmp (ρ .width) (probe .pa0 k ρ))
  | .getw, ρ => ρ .width
  | .fm, ρ => ampWord (fmAmp 0 ρ)
  | .fmo k, ρ => ampWord (fmAmp k ρ)
  | .getg, ρ => ρ .gain
  | .getst, ρ => ρ .status
  | .nop, _ | .inc _, _ | .dec _, _ | .setph _ _, _ | .setinc _ _, _ | .setfreq _ _ _, _ | .setper _ _, _
  | .setw _, _ | .setg _, _ | .clrst, _ => 0

/-- `exec` answers a next state with the registers of `instrLeaves` and the response of `instrAnswer`. -/
def ExecDescribed (i : Instr) (s : State) : Prop :=
  ∃ t, exec i s = .next t ∧ t.regs.read = instrLeaves i s.regs.read ∧
    t.responses = s.responses ++ [instrAnswer i s.regs.read]

theorem execDescribed_of_respond {i : Instr} {s u : State} {v : Word} (he : exec i s = .next (u.respond v))
    (hu : u.responses = s.responses) (hr : u.regs.read = instrLeaves i s.regs.read)
    (hv : v = instrAnswer i s.regs.read) : ExecDescribed i s :=
  ⟨_, he, hr, by rw [State.respond_responses, hu, hv]⟩

theorem execDescribed_of_raise {i : Instr} {s : State} (he : exec i s = .next (s.raise .pv))
    (hr : instrLeaves i s.regs.read = violated s.regs.read) (hv : instrAnswer i s.regs.read = 0) : ExecDescribed i s :=
  ⟨_, he, by rw [read_raise_pv, hr, violated], by rw [State.raise_responses, hv]⟩

theorem read_stepPh (a : AccSel) (s : State) :
    (s.setPh a (s.ph a + s.inc a)).regs.read = stepAcc a s.regs.read := by
  rw [read_setPh, stepAcc, Regs.read_ph, Regs.read_inc]

theorem read_stepBack (a : AccSel) (s : State) :
    (s.setPh a (s.ph a - s.inc a)).regs.read = instrLeaves (.dec a) s.regs.read := by
  rw [read_setPh, instrLeaves, Regs.read_ph, Regs.read_inc]

theorem read_advanceBoth (s : State) : (advanceBoth s).regs.read = stepAcc .pa0 (stepAcc .pa1 s.regs.read) := by
  rw [advanceBoth, read_setPh, read_stepPh]
  simp [stepAcc]

theorem fmAmp_read (k : Int) (s : State) : fmAmp k s.regs.read = fmSample k s := by
  simp only [fmAmp, fmSample, probe, Regs.read_ph, Regs.read_inc]
  rfl

/-- One equation per command, read as an update of the valuation. -/
theorem execDescribed (i : Instr) (s : State) : ExecDescribed i s := by
  cases i with
  | nop => exact execDescribed_of_respond (exec_nop s) rfl rfl rfl
  | adv a => exact execDescribed_of_respond (exec_adv a s) rfl (read_stepPh a s) (Regs.read_ph a s).symm
  | advo a k => exact execDescribed_of_respond (exec_advo a k s) rfl (read_stepPh a s) (by simp [instrAnswer, probe])
  | isst a => exact execDescribed_of_respond (exec_isst a s) rfl rfl (by simp [instrAnswer])
  | inc a => exact execDescribed_of_respond (exec_inc a s) rfl (read_stepPh a s) rfl
  | dec a => exact execDescribed_of_respond (exec_dec a s) rfl (read_stepBack a s) rfl
  | getph a => exact execDescribed_of_respond (exec_getph a s) rfl rfl (Regs.read_ph a s).symm
  | setph a v => exact execDescribed_of_respond (exec_setph a v s) rfl (read_setPh a v s) rfl
  | getinc a => exact execDescribed_of_respond (exec_getinc a s) rfl rfl (Regs.read_inc a s).symm
  | setinc a v => exact execDescribed_of_respond (exec_setinc a v s) rfl (read_setInc a v s) rfl
  | setfreq a freq sr =>
    by_cases h : sr = 0
    · exact execDescribed_of_raise (if_pos h) (if_pos h) rfl
    · exact execDescribed_of_respond (exec_setfreq_of_ne a freq h s) rfl ((read_setInc ..).trans (if_neg h).symm) rfl
  | setper a period =>
    by_cases h : period = 0
    · exact execDescribed_of_raise (if_pos h) (if_pos h) rfl
    · exact execDescribed_of_respond (exec_setper_of_ne a h s) rfl ((read_setInc ..).trans (if_neg h).symm) rfl
  | sin => exact execDescribed_of_respond (exec_sin s) rfl (read_stepPh .pa0 s) rfl
  | pulse => exact execDescribed_of_respond (exec_pulse s) rfl (read_stepPh .pa0 s) (ampWord_pulseCmp ..).symm
  | pulseo k => exact execDescribed_of_respond (exec_pulseo k s) rfl (read_stepPh .pa0 s) (ampWord_pulseCmp ..).symm
  | getw => exact execDescribed_of_respond (exec_getw s) rfl rfl rfl
  | setw v => exact execDescribed_of_respond (exec_setw v s) rfl (read_setWidth v s) rfl
  | fm =>
    exact execDescribed_of_respond (exec_fm s) rfl (read_advanceBoth s) (congrArg ampWord (fmAmp_read 0 s).symm)
  | fmo k =>
    exact execDescribed_of_respond (exec_fmo k s) rfl (read_advanceBoth s) (congrArg ampWord (fmAmp_read k s).symm)
  | getg => exact execDescribed_of_respond (exec_getg s) rfl rfl rfl
  | setg v => exact execDescribed_of_respond (exec_setg v s) rfl (read_setGain v s) rfl
  | getst => exact execDescribed_of_respond (exec_getst s) rfl rfl rfl
  | clrst => exact execDescribed_of_respond (exec_clrst s) rfl (read_clearStatus s) rfl

theorem read_of_exec {i : Instr} {s t : State} (h : exec i s = .next t) :
    t.regs.read = instrLeaves i s.regs.read := by
  obtain ⟨u, hu, hr, -⟩ := execDescribed i s
  cases hu.symm.trans h
  exact hr

/-- Settles O7: the kind is that of `instrAnswer`. -/
theorem responsesHaveTheirKind : Obligations.ResponsesHaveTheirKind := by
  intro i s
  obtain ⟨t, ht, -, hv⟩ := execDescribed i s
  refine ⟨t, _, ht, hv, ?_⟩
  cases i with
  | isst a => exact (ite_eq_or_eq _ 1 0).symm
  | sin | pulse | pulseo | fm | fmo => exact ⟨_, ampWord_eq_signExtend _⟩
  | getst => rfl
  | adv | advo | getph | getinc | getw | getg => exact trivial
  | _ => rfl

/-! ### R18's columns -/

section
variable {i : Instr} {ρ σ : Valuation} {n : RegName}

theorem violated_of_ne (hn : n ≠ .status) : violated ρ n = ρ n := update_of_ne hn ..

theorem setRate_of_ne {a : AccSel} {x v : Word} (hinc : n ≠ .inc a) (hstatus : n ≠ .status) :
    setRate a x v ρ n = ρ n := by
  rw [setRate, ite_apply, violated_of_ne hstatus, update_of_ne hinc, ite_self]

theorem leaves_of_not_written (hn : n ∉ instrWrites i) : instrLeaves i ρ n = ρ n := by
  cases i with
  | setfreq | setper =>
    have hinc := List.ne_of_not_mem_cons hn
    have hstatus := List.ne_of_not_mem_cons (List.not_mem_of_not_mem_cons hn)
    exact setRate_of_ne hinc hstatus
  | fm | fmo =>
    have hph0 := List.ne_of_not_mem_cons hn
    have hph1 := List.ne_of_not_mem_cons (List.not_mem_of_not_mem_cons hn)
    exact (update_of_ne hph0 ..).trans (update_of_ne hph1 ..)
  | nop | isst | getph | getinc | getw | getg | getst => rfl
  | _ => exact update_of_ne (List.ne_of_not_mem_cons hn) ..

/-- The answer is a term in the registers of the column "read by". -/
theorem answer_congr (h : ∀ r ∈ instrReads i, ρ r = σ r) : instrAnswer i ρ = instrAnswer i σ := by
  cases i with
  | nop | inc | dec | setph | setinc | setfreq | setper | setw | setg | clrst => rfl
  | _ =>
    simp only [instrReads, List.forall_mem_cons] at h
    simp only [instrAnswer, probe, fmAmp, h]

theorem update_congr {m : RegName} {v w : Word} (hn : ρ n = σ n) (hv : n = m → v = w) :
    update ρ m v n = update σ m w n := by
  by_cases h : n = m
  · rw [h, update_self, update_self, hv h]
  · rw [update_of_ne h, update_of_ne h, hn]

theorem violated_congr (hn : ρ n = σ n) : violated ρ n = violated σ n :=
  update_congr hn fun h => by rw [← h, hn]

theorem setRate_congr {a : AccSel} {x v : Word} (hn : ρ n = σ n) : setRate a x v ρ n = setRate a x v σ n := by
  unfold setRate
  split
  · exact violated_congr hn
  · exact update_congr hn fun _ => rfl

theorem stepAcc_congr {a : AccSel} (hph : ρ (.ph a) = σ (.ph a)) (hinc : ρ (.inc a) = σ (.inc a)) (hn : ρ n = σ n) :
    stepAcc a ρ n = stepAcc a σ n :=
  update_congr hn fun _ => by rw [hph, hinc]

theorem leaves_congr (h : ∀ r ∈ instrReads i, ρ r = σ r) (hn : ρ n = σ n) : instrLeaves i ρ n = instrLeaves i σ n := by
  cases i with
  | adv | advo | inc | sin | pulse | pulseo =>
    simp only [instrReads, List.forall_mem_cons] at h
    obtain ⟨hph, hinc, -⟩ := h
    exact stepAcc_congr hph hinc hn
  | dec =>
    simp only [instrReads, List.forall_mem_cons] at h
    obtain ⟨hph, hinc, -⟩ := h
    exact update_congr hn fun _ => by rw [hph, hinc]
  | fm | fmo =>
    simp only [instrReads, List.forall_mem_cons] at h
    obtain ⟨hph0, hinc0, hph1, hinc1, -⟩ := h
    exact stepAcc_congr hph0 hinc0 (stepAcc_congr hph1 hinc1 hn)
  | setfreq | setper => exact setRate_congr hn
  | setph | setinc | setw | setg | clrst => exact update_congr hn fun _ => rfl
  | nop | isst | getph | getinc | getw | getg | getst => exact hn

/-- A register that is written and not read is written by a setter, with its operand. -/
theorem leaves_eq_of_written (h : ∀ r ∈ instrReads i, ρ r = σ r) (hn : n ∈ instrWrites i) (hstatus : n ≠ .status)
    (he : instrError i = none) : instrLeaves i ρ n = instrLeaves i σ n := by
  by_cases hread : n ∈ instrReads i
  · exact leaves_congr h (h n hread)
  · cases i with
    | setph | setinc | setw | setg =>
      cases List.mem_singleton.mp hn
      simp only [instrLeaves, update_self]
    | setfreq | setper =>
      cases (List.mem_pair.mp hn).resolve_right hstatus
      simp_all [instrError, instrLeaves, setRate]
    | _ => simp_all [instrReads, instrWrites]

/-- If `j` reads nothing that `i` writes, then outside these registers it leaves after `i` what it leaves without. -/
theorem leaves_of_following {i j : Instr} (h : ∀ r ∈ instrWrites i, r ∉ instrReads j) (hn : n ∉ instrWrites i) :
    instrLeaves j (instrLeaves i ρ) n = instrLeaves j ρ n :=
  leaves_congr (fun _ hr => leaves_of_not_written fun hw => h _ hw hr) (leaves_of_not_written hn)

theorem leaves_comm {i j : Instr} (hij : ∀ r ∈ instrWrites i, r ∉ instrReads j ∧ r ∉ instrWrites j)
    (hji : ∀ r ∈ instrWrites j, r ∉ instrReads i) :
    instrLeaves j (instrLeaves i ρ) = instrLeaves i (instrLeaves j ρ) := by
  funext n
  by_cases hn : n ∈ instrWrites i
  · obtain ⟨-, hnj⟩ := hij n hn
    rw [leaves_of_not_written hnj, leaves_of_following hji hnj]
  · rw [leaves_of_not_written hn, leaves_of_following (fun r hr => (hij r hr).1) hn]

theorem leaves_status (he : instrError i = none) :
    instrLeaves i ρ .status = ρ .status ∨ i = .clrst ∧ instrLeaves i ρ .status = 0 := by
  cases i with
  | clrst => exact .inr ⟨rfl, by rw [instrLeaves, update_self]⟩
  | setfreq | setper => exact .inl (by simp_all [instrError, instrLeaves, setRate])
  | _ => exact .inl (leaves_of_not_written (by simp [instrWrites]))

theorem violated_idempotent (ρ : Valuation) : violated (violated ρ) = violated ρ := by
  rw [violated, violated, update_self, update_idem, BitVec.or_assoc, BitVec.or_self]

theorem setRate_idempotent (a : AccSel) (x v : Word) (ρ : Valuation) :
    setRate a x v (setRate a x v ρ) = setRate a x v ρ := by
  unfold setRate
  split
  · exact violated_idempotent ρ
  · exact update_idem ..

theorem leaves_idempotent (hi : i.op ∈ [Op.setph, .setinc, .setfreq, .setper, .setw, .setg, .clrst]) :
    instrLeaves i (instrLeaves i ρ) = instrLeaves i ρ := by
  cases i with
  | setfreq | setper => exact setRate_idempotent ..
  | setph | setinc | setw | setg | clrst => exact update_idem ..
  | _ => simp [Instr.op] at hi

end

/-! ### The obligations on the columns -/

/-- Settles O16: R18's column as a frame of `instrLeaves`. -/
theorem onlyListedRegistersAreWritten : Obligations.OnlyListedRegistersAreWritten := by
  intro i s t r ht hr
  rw [read_of_exec ht, leaves_of_not_written hr]

/-- Settles O17: the answer and the registers left are congruences in what the command reads. -/
theorem onlyListedRegistersAreRead : Obligations.OnlyListedRegistersAreRead := by
  intro i s u h
  obtain ⟨s', hs, hsr, hsv⟩ := execDescribed i s
  obtain ⟨u', hu, hur, huv⟩ := execDescribed i u
  rw [← answer_congr h] at huv
  refine ⟨s', u', _, hs, hu, hsv, huv, fun r hr => ?_, fun r hr hstatus he => ?_⟩
  · rw [hsr, hur, leaves_congr h hr]
  · rw [hsr, hur, leaves_eq_of_written h hr hstatus he]

theorem instrWrites_of_readOnly {i : Instr} (hi : i.op ∈ [Op.nop, .isst, .getph, .getinc, .getw, .getg, .getst]) :
    instrWrites i = [] := by
  cases i with
  | nop | isst | getph | getinc | getw | getg | getst => rfl
  | _ => simp [Instr.op] at hi

/-- Settles O22: a command that writes nothing is answered twice from the same registers. -/
theorem readOnlyAndIdempotentCommands : Obligations.ReadOnlyAndIdempotentCommands := by
  constructor
  · intro i s hi
    have hkeep (ρ : Valuation) : instrLeaves i ρ = ρ :=
      funext fun n => leaves_of_not_written (by rw [instrWrites_of_readOnly hi]; exact List.not_mem_nil)
    obtain ⟨t, ht, htr, htv⟩ := execDescribed i s
    obtain ⟨u, hu, hur, huv⟩ := execDescribed i t
    rw [hkeep] at htr hur
    refine ⟨t, u, instrAnswer i s.regs.read, ht, hu, Regs.read_injective htr, Regs.read_injective (hur.trans htr), ?_⟩
    rw [huv, htv, htr, List.append_assoc]
    rfl
  · intro i s hi
    obtain ⟨t, ht, htr, -⟩ := execDescribed i s
    obtain ⟨u, hu, hur, -⟩ := execDescribed i t
    refine ⟨t, u, ht, hu, Regs.read_injective ?_⟩
    rw [hur, htr, leaves_idempotent hi]

/-- Settles O23: the two commands commute on the valuation, which determines the registers. -/
theorem independentCommandsCommute : Obligations.IndependentCommandsCommute := by
  intro i j s hij hji
  obtain ⟨t, ht, htr, -⟩ := execDescribed i s
  obtain ⟨u, hu, hur, -⟩ := execDescribed j t
  obtain ⟨t', ht', htr', -⟩ := execDescribed j s
  obtain ⟨u', hu', hur', -⟩ := execDescribed i t'
  refine ⟨t, u, t', u', ht, hu, ht', hu', Regs.read_injective ?_⟩
  rw [hur, htr, hur', htr', leaves_comm hij hji]

/-! ### What raises an error (R107, R108) -/

theorem exec_error_cases (i : Instr) (s : State) :
    (instrError i = some .pv ∧ exec i s = .next (s.raise .pv)) ∨
    (instrError i = none ∧ ∃ t, exec i s = .next t ∧ t.faults = s.faults) := by
  cases i with
  | setfreq a freq sr =>
    by_cases h : sr = 0
    · exact .inl ⟨if_pos h, if_pos h⟩
    · exact .inr ⟨if_neg h, _, if_neg h, rfl⟩
  | setper a period =>
    by_cases h : period = 0
    · exact .inl ⟨if_pos h, if_pos h⟩
    · exact .inr ⟨if_neg h, _, if_neg h, rfl⟩
  | _ => exact .inr ⟨rfl, _, rfl, rfl⟩

theorem commandError_of_ok {c : Command} {i : Instr} (hd : decode c = .ok i) : commandError c = instrError i := by
  simp only [commandError, hd]

theorem commandError_of_illegal {c : Command} {why : Illegal} (hd : decode c = .illegal why) :
    commandError c = some .ill := by
  simp only [commandError, hd]

theorem transact_of_error {c : Command} {e : Fault} (he : commandError c = some e) (s : State) :
    transact c s = .next (s.raise e).countCommand := by
  cases hd : decode c with
  | illegal why =>
    cases (commandError_of_illegal hd).symm.trans he
    exact transact_of_illegal hd s
  | ok i =>
    rw [commandError_of_ok hd] at he
    obtain ⟨hpv, hi⟩ | ⟨hnone, -⟩ := exec_error_cases i s
    · cases hpv.symm.trans he
      rw [transact_of_ok hd, hi, onNext_next]
    · cases hnone.symm.trans he

/-- A transaction without an error serves a command, puts nothing on record, and writes STATUS only as CLRST. -/
theorem transact_of_no_error {c : Command} (he : commandError c = none) (s : State) :
    ∃ i t, decode c = .ok i ∧ transact c s = .next t.countCommand ∧ Served s t ∧ t.faults = s.faults ∧
      (t.regs.statusWord = s.regs.statusWord ∨ i = .clrst ∧ t.regs.statusWord = 0) := by
  cases hd : decode c with
  | illegal why => cases (commandError_of_illegal hd).symm.trans he
  | ok i =>
    rw [commandError_of_ok hd] at he
    obtain ⟨hpv, -⟩ | ⟨-, t, ht, hfaults⟩ := exec_error_cases i s
    · cases hpv.symm.trans he
    · refine ⟨i, t, rfl, by rw [transact_of_ok hd, ht, onNext_next], served_of_exec ht, hfaults, ?_⟩
      have hr := congrFun (read_of_exec ht) .status
      exact (leaves_status he).imp hr.trans fun ⟨hi, hz⟩ => ⟨hi, hr.trans hz⟩

theorem written_eq_ph_of_sampleCall {i : Instr} {n : RegName} (hi : isSampleCall i = true) (hn : n ∈ instrWrites i) :
    ∃ a, n = .ph a := by
  cases i with
  | adv | advo | inc | dec | sin | pulse | pulseo => exact ⟨_, List.mem_singleton.mp hn⟩
  | fm | fmo => exact (List.mem_pair.mp hn).elim (⟨_, ·⟩) (⟨_, ·⟩)
  | _ => simp [isSampleCall, Instr.op] at hi

theorem instrError_of_sampleCall {i : Instr} (hi : isSampleCall i = true) : instrError i = none := by
  cases i with
  | setfreq | setper => simp [isSampleCall, Instr.op] at hi
  | _ => rfl

/-- Settles O18: a sample call raises no error, and STATUS is no phase. -/
theorem sampleCallsNeverRaise : Obligations.SampleCallsNeverRaise := by
  intro i s hi
  have hstatus : .status ∉ instrWrites i := fun h => nomatch written_eq_ph_of_sampleCall hi h
  obtain ⟨hpv, -⟩ | ⟨-, t, ht, hfaults⟩ := exec_error_cases i s
  · cases hpv.symm.trans (instrError_of_sampleCall hi)
  · exact ⟨t, ht, onlyListedRegistersAreWritten i s t .status ht hstatus, hfaults⟩

/-- Settles O19: an error is raised whole, and without one nothing is put on record. -/
theorem errorsAreRaisedExactly : Obligations.ErrorsAreRaisedExactly := by
  intro c s
  cases he : commandError c with
  | none =>
    obtain ⟨_, t, -, ht, -, hfaults, -⟩ := transact_of_no_error he s
    exact ⟨_, ht, hfaults⟩
  | some e =>
    refine ⟨_, transact_of_error he s, ?_⟩
    cases e <;> rfl

/-- Settles O20: raising sets a flag and keeps the other, and no other command but CLRST writes STATUS. -/
theorem statusBitsAreSticky : Obligations.StatusBitsAreSticky := by
  intro c s t ht hclrst
  cases he : commandError c with
  | none =>
    obtain ⟨i, u, hd, hu, -, -, hstatus | ⟨rfl, -⟩⟩ := transact_of_no_error he s
    · cases hu.symm.trans ht
      obtain ⟨hill, hpv⟩ := statusWord_inj.mp hstatus
      exact ⟨hill.trans, hpv.trans⟩
    · exact absurd hd hclrst
  | some e =>
    cases (transact_of_error he s).symm.trans ht
    cases e
    · exact ⟨fun _ => rfl, id⟩
    · exact ⟨id, fun _ => rfl⟩

/-! ### The run's bookkeeping (R46, R110, R113) -/

theorem Accounted.index_lt {s : State} (h : Accounted s) : ∀ e ∈ s.faults, e.index < s.index := by
  intro e he
  obtain ⟨hlt, -⟩ := List.getElem?_eq_some_iff.mp (h.errors_answered_zero e he)
  rwa [h.one_response] at hlt

theorem recorded_append {faults : List FaultEntry} {k : Fault} (h : ∃ e ∈ faults, e.kind = k) (f : FaultEntry) :
    ∃ e ∈ faults ++ [f], e.kind = k := by
  obtain ⟨e, he, hk⟩ := h
  exact ⟨e, List.mem_append_left _ he, hk⟩

theorem recorded_append_self (faults : List FaultEntry) (f : FaultEntry) :
    ∃ e ∈ faults ++ [f], e.kind = f.kind := ⟨f, List.mem_concat_self, rfl⟩

theorem Accounted.raise {s : State} (h : Accounted s) (e : Fault) : Accounted (s.raise e).countCommand where
  one_response := by simp [h.one_response]
  errors_answered_zero := by
    intro f hf
    obtain hold | hnew := List.mem_append.mp hf
    · have hlt : f.index < s.responses.length := h.one_response ▸ h.index_lt f hold
      exact (List.getElem?_append_left hlt).trans (h.errors_answered_zero f hold)
    · cases List.mem_singleton.mp hnew
      simp [← h.one_response]
  errors_in_order := by simpa [List.pairwise_append, h.errors_in_order] using h.index_lt
  ill_recorded := by
    cases e with
    | ill => exact fun _ => recorded_append_self s.faults ⟨s.index, .ill⟩
    | pv => exact fun hill => recorded_append (h.ill_recorded hill) ⟨s.index, .pv⟩
  pv_recorded := by
    cases e with
    | ill => exact fun hpv => recorded_append (h.pv_recorded hpv) ⟨s.index, .ill⟩
    | pv => exact fun _ => recorded_append_self s.faults ⟨s.index, .pv⟩

theorem statusWord_eq_zero_iff {r : Regs} : r.statusWord = 0 ↔ r.ill = false ∧ r.pv = false :=
  statusWord_inj (r' := Regs.reset)

theorem Accounted.served {s t : State} (h : Accounted s) (hs : Served s t) (hfaults : t.faults = s.faults)
    (hill : t.regs.ill = true → s.regs.ill = true) (hpv : t.regs.pv = true → s.regs.pv = true) :
    Accounted t.countCommand := by
  obtain ⟨v, hv⟩ := hs.responses
  refine ⟨by simp [hv, hs.index, h.one_response], fun e he => ?_, ?_, fun ht => ?_, fun ht => ?_⟩
  · rw [State.countCommand_faults, hfaults] at he
    have hlt : e.index < s.responses.length := h.one_response ▸ h.index_lt e he
    rw [State.countCommand_responses, hv, List.getElem?_append_left hlt]
    exact h.errors_answered_zero e he
  · simpa [hfaults] using h.errors_in_order
  · simpa [hfaults] using h.ill_recorded (hill ht)
  · simpa [hfaults] using h.pv_recorded (hpv ht)

theorem Accounted.transact {s t : State} {c : Command} (h : Accounted s) (ht : transact c s = .next t) :
    Accounted t := by
  cases he : commandError c with
  | none =>
    obtain ⟨i, u, -, hu, hs, hfaults, hstatus⟩ := transact_of_no_error he s
    cases hu.symm.trans ht
    obtain hkept | ⟨-, hzero⟩ := hstatus
    · obtain ⟨hill, hpv⟩ := statusWord_inj.mp hkept
      exact h.served hs hfaults hill.symm.trans hpv.symm.trans
    · obtain ⟨hill, hpv⟩ := statusWord_eq_zero_iff.mp hzero
      exact h.served hs hfaults (by simp [hill]) (by simp [hpv])
  | some e =>
    cases (transact_of_error he s).symm.trans ht
    exact h.raise e

theorem Accounted.dropInput {s : State} (h : Accounted s) : Accounted s.dropInput := by
  obtain ⟨hone, hzero, horder, hill, hpv⟩ := h
  exact ⟨hone, hzero, horder, hill, hpv⟩

theorem Accounted.resetRegs {s : State} (h : Accounted s) : Accounted s.resetRegs := by
  obtain ⟨hone, hzero, horder, -, -⟩ := h
  exact ⟨hone, hzero, horder, nofun, nofun⟩

/-- Settles O13: a transaction keeps the bookkeeping; a reset pulse clears both flags and keeps the rest. -/
theorem accountedKeptByEveryStep : Obligations.AccountedKeptByEveryStep := by
  intro s t h ht
  obtain ⟨-, rfl⟩ | ⟨_, -, rfl⟩ | ⟨c, _, u, -, hu, rfl⟩ := step_cases ht
  · exact h
  · exact h.resetRegs.dropInput
  · exact (h.transact hu).dropInput

/-- Settles O14: nothing is served, on record or set. -/
theorem accountedAtReset : Obligations.AccountedAtReset := ⟨rfl, nofun, .nil, nofun, nofun⟩

theorem step_completes (s : State) : ∃ t, step s = .next t := by
  cases hp : s.pending with
  | nil => exact ⟨s, by rw [step, hp]⟩
  | cons x rest =>
    cases x with
    | reset => exact ⟨_, step_of_reset hp⟩
    | command c =>
      obtain ⟨t, ht, -⟩ := transact_served c s
      exact ⟨_, by rw [step_of_command hp, ht, onNext_next]⟩

/-- Settles O11: the host's list is empty, or begins with a reset pulse or a transaction. -/
theorem everyStepCompletes : Obligations.EveryStepCompletes := step_completes

/-! ### Runs without an error (92 D22) -/

/-- The premise of D22 on the run so far and on the commands to come. -/
structure ErrorFree (s : State) : Prop where
  accounted : Accounted s
  faultless : Faultless s
  commands : ∀ c : Command, .command c ∈ s.pending → commandError c = none

theorem ErrorFree.step {s t : State} (h : ErrorFree s) (ht : step s = .next t) : ErrorFree t := by
  have hacc := accountedKeptByEveryStep s t h.accounted ht
  obtain ⟨-, rfl⟩ | ⟨rest, hp, rfl⟩ | ⟨c, rest, u, hp, hu, rfl⟩ := step_cases ht
  · exact h
  · exact ⟨hacc, h.faultless, fun c hc => h.commands c (List.mem_of_mem_tail hc)⟩
  · have he := h.commands c (by simp [hp])
    obtain ⟨i, v, -, hv, hs, hfaults, -⟩ := transact_of_no_error he s
    cases hv.symm.trans hu
    refine ⟨hacc, hfaults.trans h.faultless, fun c' hc => h.commands c' ?_⟩
    exact hs.pending ▸ List.mem_of_mem_tail hc

theorem ErrorFree.statusWord {s : State} (h : ErrorFree s) : s.regs.statusWord = 0 := by
  have hnone {k : Fault} : ¬ ∃ e ∈ s.faults, e.kind = k := by simp [show s.faults = [] from h.faultless]
  refine statusWord_eq_zero_iff.mpr ⟨?_, ?_⟩
  · exact Bool.eq_false_iff.mpr fun hill => hnone (h.accounted.ill_recorded hill)
  · exact Bool.eq_false_iff.mpr fun hpv => hnone (h.accounted.pv_recorded hpv)

theorem ErrorFree.run {s : State} (h : ErrorFree s) (n : Nat) :
    ∃ t, Host.Core.run Sys2Proof.core n s = .next t ∧ ErrorFree t := by
  induction n generalizing s with
  | zero => exact ⟨s, rfl, h⟩
  | succ n ih =>
    obtain ⟨t, ht⟩ := step_completes s
    rw [run_succ_of_step (M := Sys2Proof.core) n ht]
    exact ih (h.step ht)

/-- Settles O15: the premises are kept by every step, and with no error on record neither flag can be set. -/
theorem errorFreeRunsStayFaultless : Obligations.ErrorFreeRunsStayFaultless := by
  intro n s hacc hfaultless hcommands
  obtain ⟨t, ht, h⟩ := ErrorFree.run ⟨hacc, hfaultless, hcommands⟩ n
  exact ⟨t, ht, h.accounted, h.faultless, h.statusWord⟩

/-! ### The start of a cycle (R79) -/

/-- A step ends below the increment exactly if it wrapped. -/
theorem toNat_add_lt_iff_wrap (p d : Word) : (p + d).toNat < d.toNat ↔ 2 ^ 32 ≤ p.toNat + d.toNat := by
  rw [BitVec.toNat_add]
  omega

/-- A sample call but DEC moves every phase it writes one increment on. -/
theorem leaves_ph_of_sampleCall {i : Instr} {a : AccSel} (hi : isSampleCall i = true) (hdec : i ≠ .dec a)
    (hph : .ph a ∈ instrWrites i) (ρ : Valuation) : instrLeaves i ρ (.ph a) = ρ (.ph a) + ρ (.inc a) := by
  cases i with
  | fm | fmo => cases a <;> simp [instrLeaves, stepAcc]
  | _ => simp_all [isSampleCall, Instr.op, instrWrites, instrLeaves, stepAcc]

/-- Settles O40: the call stores p + d, and ISST compares that with d. -/
theorem cycleStartDetection : Obligations.CycleStartDetection := by
  intro i a s hi hdec hph _
  obtain ⟨t, ht, htr, -⟩ := execDescribed i s
  have htph : t.ph a = s.ph a + s.inc a := by
    rw [← Regs.read_ph, htr, leaves_ph_of_sampleCall hi hdec hph, Regs.read_ph, Regs.read_inc]
  have hincw : .inc a ∉ instrWrites i := fun h => nomatch written_eq_ph_of_sampleCall hi h
  have htinc : t.inc a = s.inc a := by
    rw [← Regs.read_inc, htr, leaves_of_not_written hincw, Regs.read_inc]
  refine ⟨t, _, ht, exec_isst a t, ?_, fun hwrap => ?_⟩
  · simp only [htph, htinc, State.respond_responses, toNat_add_lt_iff_wrap]
  · rw [accAdvance_fst, phaseAfter_zero, htph]
    exact (toNat_add_lt_iff_wrap _ _).mpr hwrap

end Sys2Proof.Machine

/-! ## Proofs: steps, arithmetic and the reset state (00_scope.md, 10_state.md, 70_reset_and_hazards.md)

A command that leaves the reset registers as they are can be issued for ever and is answered one word. -/

namespace Sys2Proof.Machine

/-! ### The step, case by case (R45, R120, R121) -/

/-- Settles O8: serving keeps the index and the host's list, which the step then moves on. -/
theorem stepRunsDecodedCommand : Obligations.StepRunsDecodedCommand := by
  intro s c rest i hp hd
  obtain ⟨t, ht, hs⟩ := exec_served i s
  refine ⟨t, ht, ?_⟩
  rw [step_of_exec hp hd ht, ← hs.index, State.dropInput, State.countCommand_pending, hs.pending, hp]
  rfl

/-- Settles O9: one equation for each of the two cases. -/
theorem idleAndResetSteps : Obligations.IdleAndResetSteps := by
  refine ⟨fun s hp => by rw [step, hp], fun s rest hp => ?_⟩
  rw [step_of_reset hp, State.dropInput, State.resetRegs_pending, hp]
  rfl

/-! ### Words and accumulators (R9, R19, R82) -/

/-- Settles O24: a residue is not negative, so its bit pattern stands for itself. -/
theorem wrap32IsTheResidue : Obligations.Wrap32IsTheResidue := toNat_wrap32

/-- Settles O32: each of the four pairs of accumulators. -/
theorem accumulatorsDoNotAlias : Obligations.AccumulatorsDoNotAlias := by
  intro a b x r
  refine ⟨?_, Regs.setAcc_width .., Regs.setAcc_gain .., Regs.setAcc_ill .., Regs.setAcc_pv ..⟩
  cases a <;> cases b <;> rfl

/-- Settles O43: the sign is `sineLu_nonneg_iff`; phases of one index look up one entry. -/
theorem sineLookupSignsAndValues : Obligations.SineLookupSignsAndValues := by
  refine ⟨fun p q h => ?_, sineLu_nonneg_iff, by decide, by decide, by decide, by decide⟩
  refine BitVec.eq_of_toInt_eq ?_
  rw [sineLu_toInt, sineLu_toInt, h]

/-! ### Pseudo-instructions (R56) -/

theorem uq16_toNat {n : Nat} (h : n < 65536) : (uq16 n).toNat = n * 65536 := by
  rw [uq16, wrap32_natCast, BitVec.toNat_ofNat, Nat.mod_eq_of_lt (by omega)]

/-- Settles O57: within its range each operand is a word, so wrapping keeps it. -/
theorem pseudoInstructionsMeanTheirNotes : Obligations.PseudoInstructionsMeanTheirNotes := by
  refine fun a s => ⟨rfl, ?_, rfl, fun f sr hf => ⟨uq16 f, uq16_toNat hf, rfl⟩,
    fun n _ hn => ⟨uq16 n, uq16_toNat hn, rfl⟩, fun num den h => ⟨_, ?_, rfl⟩⟩
  · rw [Pseudo.expand, exec_advo, phaseAfter_zero, exec_adv]
  · have hlt : num * 2 ^ 32 / den < 2 ^ 32 := by
      rw [Nat.div_lt_iff_lt_mul (by omega), Nat.mul_comm]
      omega
    rw [wrap32_natCast, BitVec.toNat_ofNat, Nat.mod_eq_of_lt hlt]

/-! ### The reset state (R123) -/

/-- From the reset registers the effect `f` of a command leaves them and answers `w`. -/
def SilentAtReset (f : State → State) (w : Word) : Prop :=
  ∀ s, s.regs = Regs.reset → (f s).regs = Regs.reset ∧ (f s).responses = s.responses ++ [w]

theorem SilentAtReset.issue {i : Instr} {f : State → State} {w : Word} (h : SilentAtReset f w)
    (hd : decode (encode i) = .ok i) (hf : ∀ s, exec i s = .next (f s)) (n : Nat) :
    ∃ t, issue n i State.reset = .next t ∧ t.responses = List.replicate n w ∧ t.regs = Regs.reset := by
  have hrun (u : State) (hu : u.regs = Regs.reset) : ((issued f)^[n] u).regs = Regs.reset ∧
      ((issued f)^[n] u).responses = u.responses ++ List.replicate n w := by
    induction n with
    | zero => simp [hu]
    | succ n ih =>
      obtain ⟨ihregs, ihresp⟩ := ih
      obtain ⟨hregs, hresp⟩ := h _ ihregs
      rw [Function.iterate_succ_apply', List.replicate_succ', ← List.append_assoc, ← ihresp]
      exact ⟨hregs, hresp⟩
  obtain ⟨hregs, hresp⟩ := hrun { State.reset with pending := List.replicate n (.command (encode i)) } rfl
  exact ⟨_, issue_eq_iterate hd hf n _, hresp, hregs⟩

theorem ampWord_sineLu_zero : ampWord (sineLu 0) = 0 := by decide

theorem silentAtReset_adv (a : AccSel) :
    SilentAtReset (fun s => (s.setPh a (s.ph a + s.inc a)).respond (s.ph a)) 0 := by
  rintro ⟨_, _, _, _, _⟩ rfl
  cases a <;> exact ⟨rfl, rfl⟩

theorem silentAtReset_isst (a : AccSel) :
    SilentAtReset (fun s => s.respond (if (s.ph a).toNat < (s.inc a).toNat then 1 else 0)) 0 := by
  rintro ⟨_, _, _, _, _⟩ rfl
  cases a <;> exact ⟨rfl, rfl⟩

theorem silentAtReset_sin : SilentAtReset sinEffect 0 := by
  rintro ⟨_, _, _, resp, _⟩ rfl
  exact ⟨rfl, congrArg (resp ++ [·]) ampWord_sineLu_zero⟩

theorem silentAtReset_pulse : SilentAtReset
    (fun s => (s.setPh .pa0 (s.ph .pa0 + s.inc .pa0)).respond (pulseWord s.regs.width (s.ph .pa0))) 0xFFFFC000 := by
  rintro ⟨_, _, _, _, _⟩ rfl
  exact ⟨rfl, rfl⟩

/-- At GAIN = 0 FM looks up what SIN does (R101). -/
theorem silentAtReset_fm : SilentAtReset fmEffect 0 := by
  rintro ⟨_, _, _, resp, _⟩ rfl
  refine ⟨rfl, congrArg (resp ++ [·]) ?_⟩
  rw [fmSample_gain_zero rfl, phaseAfter_zero]
  exact ampWord_sineLu_zero

/-- Settles O56: each of the five commands is silent at the reset registers. -/
theorem resetStateIsSilent : Obligations.ResetStateIsSilent := by
  intro n a
  refine ⟨(silentAtReset_adv a).issue (decode_encode_acc rfl) (exec_adv a) n, ?_, ?_, ?_, ?_⟩
  · obtain ⟨t, ht, hresp, -⟩ := (silentAtReset_isst a).issue (decode_encode_acc rfl) (exec_isst a) n
    exact ⟨t, ht, hresp⟩
  · obtain ⟨t, ht, hresp, -⟩ := silentAtReset_sin.issue (by decide) exec_sin n
    exact ⟨t, ht, hresp⟩
  · obtain ⟨t, ht, hresp, -⟩ := silentAtReset_pulse.issue (by decide) exec_pulse n
    exact ⟨t, ht, hresp⟩
  · obtain ⟨t, ht, hresp, -⟩ := silentAtReset_fm.issue (by decide) exec_fm n
    exact ⟨t, ht, hresp⟩

end Sys2Proof.Machine

/-! ## Proofs: the command port (70_reset_and_hazards.md R122, R128, R129)

One equation per case of a clock edge; then the edges of a command's latency count its clocks down and leave
the block as it was. -/

namespace Sys2Proof.Machine

/-! ### One equation per case of an edge -/

section
variable {p : Port} {pins : PortIn}

theorem tick_of_reset (hrst : pins.rstN = false) : p.tick pins = Port.resetEdge { p with cycle := p.cycle + 1 } :=
  if_pos hrst

theorem tick_of_idle (hflight : p.flight = none) (hrst : pins.rstN = true) (hacc : p.accepts pins = false) :
    p.tick pins = { p with rsp := none, cycle := p.cycle + 1 } := by
  simp [Port.tick, hrst, hflight, hacc]

theorem tick_of_flight {f : Flight} (hrst : pins.rstN = true) (hf : p.flight = some f) :
    p.tick pins = Port.proceed f.command f.left { p with cycle := p.cycle + 1 } := by
  simp [Port.tick, hrst, hf]

theorem flight_of_ready (h : p.ready = true) : p.flight = none := by
  cases hf : p.flight with
  | none => rfl
  | some f => simp [Port.ready, hf] at h

theorem tick_of_accepts (h : p.accepts pins = true) :
    p.tick pins = Port.proceed pins.word Config.latExtra { p with cycle := p.cycle + 1 } := by
  obtain ⟨⟨hrst, -⟩, hready⟩ : (pins.rstN = true ∧ pins.cmdValid = true) ∧ p.ready = true := by
    simpa [Port.accepts] using h
  simp [Port.tick, hrst, flight_of_ready hready, h]

end

/-- Settles O60: the equation of a reset edge. -/
theorem portResetLosesFlight : Obligations.PortResetLosesFlight := by
  intro p pins hrst
  rw [tick_of_reset hrst]
  exact ⟨rfl, rfl, rfl⟩

/-- Settles O59: the equation of an idle edge. -/
theorem portIdleHoldsState : Obligations.PortIdleHoldsState := by
  intro p pins hflight hrst hacc
  rw [tick_of_idle hflight hrst hacc]
  exact ⟨rfl, rfl, by simp only [Port.out, Port.ready, hflight]⟩

/-! ### A command through its latency -/

theorem complete_of_transact {c : Command} {p : Port} {t : State} (h : transact c p.block = .next t) :
    p.complete c = { p with block := t, flight := none, rsp := t.responses.getLast? } := by
  simp only [Port.complete, h]

/-- As many edges as there are clocks to go, less `m`, leave the command with `m` to go and the block as it was. -/
theorem run_proceed {c : Command} {rest : List PortIn} (hrst : ∀ x ∈ rest, x.rstN = true) (m : Nat) (q : Port) :
    ∃ q' : Port, q'.block = q.block ∧ Port.run rest (q.proceed c (rest.length + m)) = q'.proceed c m := by
  induction rest generalizing q with
  | nil => exact ⟨q, rfl, by rw [List.length_nil, Nat.zero_add, Port.run]⟩
  | cons x rest ih =>
    obtain ⟨hx, hrest⟩ := List.forall_mem_cons.mp hrst
    obtain ⟨q', hblock, hq'⟩ :=
      ih hrest { q with flight := some ⟨c, rest.length + m⟩, rsp := none, cycle := q.cycle + 1 }
    refine ⟨q', hblock, ?_⟩
    rw [List.length_cons, Nat.succ_add, Port.run, tick_of_flight (f := ⟨c, rest.length + m⟩) hx rfl]
    exact hq'

/-- Settles O58: short of LAT edges the command is in flight, which closes both pins; the last edge completes it. -/
theorem portAnswersAfterLatency : Obligations.PortAnswersAfterLatency := by
  intro p pins rest hacc hlat hrst
  have hlen : Config.latExtra = rest.length := (Nat.succ.inj hlat).symm
  rw [tick_of_accepts hacc, hlen]
  constructor
  · intro k hk
    obtain ⟨m, hm⟩ := Nat.exists_eq_add_of_lt hk
    obtain ⟨q', -, hq'⟩ := run_proceed (c := pins.word) (rest := rest.take k)
      (fun x hx => hrst x (List.mem_of_mem_take hx)) (m + 1) { p with cycle := p.cycle + 1 }
    rw [List.length_take_of_le hk.le, ← Nat.add_assoc, ← hm] at hq'
    rw [hq']
    exact ⟨rfl, rfl⟩
  · obtain ⟨t, ht, hs⟩ := transact_served pins.word p.block
    obtain ⟨v, hv⟩ := hs.responses
    obtain ⟨q', hblock, hq'⟩ := run_proceed (c := pins.word) hrst 0 { p with cycle := p.cycle + 1 }
    rw [Nat.add_zero, Port.proceed, complete_of_transact (hblock ▸ ht)] at hq'
    rw [hq']
    exact ⟨t.countCommand, v, ht, hv, rfl, by simp [Port.out, hv], by simp [Port.out, hv]⟩

end Sys2Proof.Machine
